-- ==== Sys2Proof/Word.lean ====
section
/-! DEFINITION. The word types of the CORE (rule R6: every value is an unsigned bit vector or a natural number). -/

namespace Sys2Proof

/-- One 16-bit port word (rule R34): what every port access carries. -/
abbrev Word := BitVec 16

/-- An 8-bit quantity: the operands `INC` and `VAL`, the value of a register-write word (rules R51, R55). -/
abbrev Byte := BitVec 8

end Sys2Proof
end

