-- ==== Sys2Proof/Config.lean ====
section
/-! DEFINITION. The implementation parameters of rule R5, their defaults, and the free values of the model.
The parameters are data (`Params`), carried by `State` and never written by a step, so that a statement about every
state is a statement about every choice of parameters (log entry 1). -/

namespace Sys2Proof

/-- One 32-bit base command for each of the three target memories (rules R5, R58). -/
structure PerTarget where
  vram  : BitVec 32
  cram  : BitVec 32
  vsram : BitVec 32
  deriving DecidableEq, Repr

/-- The parameter table of rule R5, one field per row. The constraints of the table are `Params.wf`. -/
structure Params where
  /-- `QCAP`, the number of queue slots. -/
  qcap            : Nat
  /-- `SEL_AUTOINC`, and below it the five other select codes. -/
  selAutoinc      : BitVec 5
  selLenl         : BitVec 5
  selLenh         : BitVec 5
  selSrcl         : BitVec 5
  selSrcm         : BitVec 5
  selSrch         : BitVec 5
  /-- `REGW_SEL_LSB`, 8 or 9. -/
  regwSelLsb      : Nat
  /-- `SRCH_MASK`. -/
  srchMask        : Byte
  /-- `FILL_SELECT`. -/
  fillSelect      : Word
  /-- `BASE_DMA[*]`. -/
  baseDma         : PerTarget
  /-- `BASE_SET[*]`: named by the spec, used by no operation of the CORE (rule R58). -/
  baseSet         : PerTarget
  /-- `FILL_BASE`. -/
  fillBase        : BitVec 32
  /-- `STATUS_DMA_BIT`. -/
  statusDmaBit    : Nat
  /-- `BUSREQ_ASSERT`, `BUSREQ_RELEASE`. -/
  busreqAssert    : Word
  busreqRelease   : Word
  /-- `COPRESET_RELEASE`. -/
  copresetRelease : Word
  /-- `BUSSTAT_MASK`, `BUSSTAT_FREE`. -/
  busstatMask     : Word
  busstatFree     : Word
  /-- `ADDR_CTRL`, `ADDR_DATA`, `ADDR_BUSREQ`, `ADDR_COPRESET` (rule R40): no rule of the CORE depends on them. -/
  addrCtrl        : BitVec 32
  addrData        : BitVec 32
  addrBusreq      : BitVec 32
  addrCopreset    : BitVec 32
  deriving DecidableEq, Repr

/-- The defaults of rule R5. Every number but `qcap` is the spec's own default, marked there as general knowledge
(G1 to G16): PRESUMED, log entry 2. `QCAP` is OPEN in the spec (decision D16); 4 is the value its test vectors use:
DESIGN CHOICE, log entry 3. -/
def Params.default : Params where
  qcap            := 4
  selAutoinc      := 0x0F#5
  selLenl         := 0x13#5
  selLenh         := 0x14#5
  selSrcl         := 0x15#5
  selSrcm         := 0x16#5
  selSrch         := 0x17#5
  regwSelLsb      := 8
  srchMask        := 0x7F#8
  fillSelect      := 0x9780#16
  baseDma         := ⟨0x40000080#32, 0xC0000080#32, 0x40000090#32⟩
  baseSet         := ⟨0x40000000#32, 0xC0000000#32, 0x40000010#32⟩
  fillBase        := 0x40000080#32
  statusDmaBit    := 1
  busreqAssert    := 0x0100#16
  busreqRelease   := 0x0000#16
  copresetRelease := 0x0100#16
  busstatMask     := 0x0100#16
  busstatFree     := 0x0000#16
  addrCtrl        := 0xC00004#32
  addrData        := 0xC00000#32
  addrBusreq      := 0xA11100#32
  addrCopreset    := 0xA11200#32

/-- FREE VALUE (rule R8, decision D28, U13): the word the environment answers to the n-th read that no listed answer
of `State` serves. Nothing constrains it. Log entry 4. -/
opaque Config.statusDraw : Nat → Word

/-- FREE VALUE (rule R8, decision D28, U13): the same for the `BUSSTAT` port. Log entry 4. -/
opaque Config.busstatDraw : Nat → Word

/-- The state of the video coprocessor that the CORE's writes put there and a read of the `STATUS` port may change (rule R37
(f), N22: whether such a read has a side effect is not in the source). -/
structure LatchedState where
  autoinc    : Byte
  lenl       : Byte
  lenh       : Byte
  srcl       : Byte
  srcm       : Byte
  srch       : Byte
  fillSource : Bool
  half       : Option Word
  armed      : Bool
  deriving DecidableEq, Repr, Inhabited

/-- FREE VALUE: what the n-th `STATUS` read leaves there, by what was there before. Nothing constrains it; that every read
leaves everything as it was is one of its values. That it does not depend on the word read is a DESIGN CHOICE. Log entry
27. -/
opaque Config.statusReadEffect : Nat → LatchedState → LatchedState

/-- FREE VALUE: the word a read of a queue slot outside the queue would give. No state that meets the invariant makes
such a read (rule R14). Log entry 5. -/
opaque Config.absentSlotWord : Nat → Word

end Sys2Proof
end

