-- ==== Sys2Proof/Syntax.lean ====
section
/-! DEFINITION. The thirteen operations of the CORE as terms (rules R51 to R54), one constructor per row of
`spec/opcode_table.json`. Operands stand in the order of the source's function signature (rule R66). -/

namespace Sys2Proof

/-- The target memories a descriptor can select (rule R58). A reserved selector has no term: the decoder refuses it. -/
inductive Target where
  | vram
  | cram
  | vsram
  deriving DecidableEq, Repr

/-- The operations (rule R54). Every operand is unsigned, of the width rule R51 gives its field. -/
inductive Instr where
  /-- `BusArbiter.request()`, rule R71. -/
  | request
  /-- `BusArbiter.request_fast()`, rule R72. -/
  | requestFast
  /-- `BusArbiter.release()`, rule R73. -/
  | release
  /-- `BusArbiter.is_free()`, rule R74. -/
  | isFree
  /-- `DmaEngine.transfer_fast(src, dest, length_words, increment, target)`, rule R85. -/
  | transferFast (src : BitVec 32) (dest len : BitVec 16) (inc : Byte) (tgt : Target)
  /-- `DmaEngine.transfer(src, dest, length_words, increment, target)`, rule R86. -/
  | transfer (src : BitVec 32) (dest len : BitVec 16) (inc : Byte) (tgt : Target)
  /-- `DmaEngine.fill(dest, length_bytes, value, increment)`, rule R88. -/
  | fill (dest len : BitVec 16) (val inc : Byte)
  /-- `DmaEngine.wait()`, rule R89. -/
  | wait
  /-- `DmaQueue.push_fast(src, dest, length_words, increment, target)`, rule R100. -/
  | pushFast (src : BitVec 32) (dest len : BitVec 16) (inc : Byte) (tgt : Target)
  /-- `DmaQueue.push(src, dest, length_words, increment, target)`, rule R101. -/
  | push (src : BitVec 32) (dest len : BitVec 16) (inc : Byte) (tgt : Target)
  /-- `DmaQueue.flush()`, rule R102. -/
  | flush
  /-- `DmaQueue.size()`, rule R103. -/
  | size
  /-- `DmaQueue.clear()`, rule R104. -/
  | clear
  deriving DecidableEq, Repr

end Sys2Proof
end

