-- ==== Sys2Proof/WellFormed.lean ====
section
/-! DEFINITION. What is well formed: the parameters (the constraints of rule R5) and the command descriptors (rule R64).
A term of `Instr` needs no check of its own: its types hold exactly the operand values rule R64 calls legal (widths by
`BitVec`, targets by `Target`), so an ill-formed instruction cannot be written; the checks stand on the 96-bit
descriptor, where reserved values exist. Each check is a `Bool` of its own. -/

namespace Sys2Proof

/-! ## The parameters (rule R5) -/

/-- `1 <= QCAP <= 65535`. -/
def Params.qcapOk (p : Params) : Bool := decide (1 ≤ p.qcap) && decide (p.qcap ≤ 65535)

/-- The six select codes. -/
def Params.sels (p : Params) : List (BitVec 5) :=
  [p.selAutoinc, p.selLenl, p.selLenh, p.selSrcl, p.selSrcm, p.selSrch]

/-- "The six `SEL_*` are pairwise distinct". -/
def Params.selsDistinct (p : Params) : Bool := decide p.sels.Nodup

/-- `REGW_SEL_LSB` is 8 or 9. -/
def Params.selLsbOk (p : Params) : Bool := p.regwSelLsb == 8 || p.regwSelLsb == 9

/-- `FILL_SELECT` has top two bits `10`. -/
def Params.fillSelectOk (p : Params) : Bool := p.fillSelect.extractLsb' 14 2 == 0b10#2

/-- A base command is zero in bits 29:16 and 1:0, where `TRIG` puts the destination (rule R57). -/
def baseOk (b : BitVec 32) : Bool := b.extractLsb' 16 14 == 0#14 && b.extractLsb' 0 2 == 0#2

/-- The three bases of a table meet `baseOk`. -/
def PerTarget.ok (t : PerTarget) : Bool := baseOk t.vram && baseOk t.cram && baseOk t.vsram

/-- `FILL_BASE` is one of `BASE_DMA[*]`. -/
def Params.fillBaseOk (p : Params) : Bool :=
  p.fillBase == p.baseDma.vram || p.fillBase == p.baseDma.cram || p.fillBase == p.baseDma.vsram

/-- `STATUS_DMA_BIT` is 0 to 15. -/
def Params.statusBitOk (p : Params) : Bool := decide (p.statusDmaBit ≤ 15)

/-- `BUSREQ_ASSERT` and `BUSREQ_RELEASE` are distinct. -/
def Params.busreqOk (p : Params) : Bool := !(p.busreqAssert == p.busreqRelease)

/-- The four `ADDR_*` are pairwise distinct. -/
def Params.addrsDistinct (p : Params) : Bool :=
  decide [p.addrCtrl, p.addrData, p.addrBusreq, p.addrCopreset].Nodup

/-- All the constraints of rule R5. -/
def Params.wf (p : Params) : Bool :=
  p.qcapOk && p.selsDistinct && p.selLsbOk && p.fillSelectOk && p.baseDma.ok && p.baseSet.ok &&
    p.fillBaseOk && p.statusBitOk && p.busreqOk && p.addrsDistinct

/-! ## The descriptor (rules R50 to R54, R64) -/

/-- A command descriptor: 96 bits, `OP TGT INC VAL LEN DEST SRC` from the top (rules R50, R51). -/
abbrev Descriptor := BitVec 96

/-- The three formats of rule R52. -/
inductive Format where
  /-- no operands -/
  | n
  /-- transfer -/
  | t
  /-- fill -/
  | f
  deriving DecidableEq, Repr

/-- The format of each of the thirteen operation codes of rule R54; `none` for a reserved code. -/
def formatOf (op : BitVec 8) : Option Format :=
  if op ∈ [0x00#8, 0x01#8, 0x02#8, 0x03#8, 0x13#8, 0x22#8, 0x23#8, 0x24#8] then some .n
  else if op ∈ [0x10#8, 0x11#8, 0x20#8, 0x21#8] then some .t
  else if op = 0x12#8 then some .f
  else none

/-- `OP`, as rule R51 places it. The slices of this file are written out from the table of rule R51 on their own, so that
they check the decoder's. -/
def Descriptor.opBits (d : Descriptor) : BitVec 8 := d.extractLsb' 88 8

/-- Rule R64 (a): `OP` is not one of the thirteen values. -/
def Descriptor.reservedOp (d : Descriptor) : Bool := (formatOf d.opBits).isNone

/-- Rule R64 (b): a field the format requires to be zero (rule R52) is not zero. -/
def Descriptor.unusedFieldNotZero (d : Descriptor) : Bool :=
  match formatOf d.opBits with
  | some .n =>
    !(d.extractLsb' 0 88 == 0#88)
  | some .t => !(d.extractLsb' 64 8 == 0#8 && d.extractLsb' 82 6 == 0#6)
  | some .f => !(d.extractLsb' 80 8 == 0#8 && d.extractLsb' 0 32 == 0#32)
  | none => false

/-- Rule R64 (c): the format is T and `TGT` is greater than 2. -/
def Descriptor.reservedTarget (d : Descriptor) : Bool :=
  formatOf d.opBits == some .t && decide (2 < (d.extractLsb' 80 8).toNat)

/-- A descriptor is legal when none of the three conditions of rule R64 holds. -/
def Descriptor.legal (d : Descriptor) : Bool :=
  !d.reservedOp && !d.unusedFieldNotZero && !d.reservedTarget

end Sys2Proof
end

