-- ==== Sys2Proof/Decode.lean ====
section
/-! DEFINITION. The decoder from a 96-bit command descriptor to an instruction, total, refusing by name (rule R64), and
the encoder beside it (rules R50 to R54, R58). No operand is sign-extended or scaled here (rule R68). -/

namespace Sys2Proof

/-! ## The fields (rule R51) -/

/-- `OP`, bits 95:88. -/
def Descriptor.op (d : Descriptor) : BitVec 8 := d.extractLsb' 88 8
/-- `TGT`, bits 87:80. -/
def Descriptor.tgt (d : Descriptor) : BitVec 8 := d.extractLsb' 80 8
/-- `INC`, bits 79:72. -/
def Descriptor.inc (d : Descriptor) : Byte := d.extractLsb' 72 8
/-- `VAL`, bits 71:64. -/
def Descriptor.val (d : Descriptor) : Byte := d.extractLsb' 64 8
/-- `LEN`, bits 63:48. -/
def Descriptor.len (d : Descriptor) : BitVec 16 := d.extractLsb' 48 16
/-- `DEST`, bits 47:32. -/
def Descriptor.dest (d : Descriptor) : BitVec 16 := d.extractLsb' 32 16
/-- `SRC`, bits 31:0. -/
def Descriptor.src (d : Descriptor) : BitVec 32 := d.extractLsb' 0 32

/-! ## The decoder -/

/-- Why a descriptor is refused: the three conditions of rule R64. -/
inductive Reject where
  /-- (a) `OP` is reserved. -/
  | reservedOp
  /-- (b) a field the format does not use is not zero. -/
  | unusedFieldNotZero
  /-- (c) format T with a reserved target. -/
  | reservedTarget
  deriving DecidableEq, Repr

/-- What the decoder answers. -/
inductive Decoded where
  | ok (i : Instr)
  | rejected (why : Reject)
  deriving DecidableEq, Repr

/-- The target a selector names (rule R58); 3 to 255 are reserved. -/
def targetOf (sel : BitVec 8) : Option Target :=
  if sel = 0#8 then some .vram else if sel = 1#8 then some .cram else if sel = 2#8 then some .vsram else none

/-- Format N (rule R52): everything below `OP` is zero. -/
def decodeN (d : Descriptor) (i : Instr) : Decoded :=
  if d.extractLsb' 0 88 = 0#88 then .ok i else .rejected .unusedFieldNotZero

/-- Format T (rule R52): `VAL` is zero and `TGT` names a target. -/
def decodeT (d : Descriptor)
    (mk : BitVec 32 → BitVec 16 → BitVec 16 → Byte → Target → Instr) : Decoded :=
  if d.val = 0#8 then
    match targetOf d.tgt with
    | some t => .ok (mk d.src d.dest d.len d.inc t)
    | none => .rejected .reservedTarget
  else .rejected .unusedFieldNotZero

/-- Format F (rule R52): `TGT` and `SRC` are zero. -/
def decodeF (d : Descriptor) (mk : BitVec 16 → BitVec 16 → Byte → Byte → Instr) : Decoded :=
  if d.tgt = 0#8 ∧ d.src = 0#32 then .ok (mk d.dest d.len d.val d.inc)
  else .rejected .unusedFieldNotZero

/-- The opcode map of rule R54. -/
def decode (d : Descriptor) : Decoded :=
  match d.op with
  | 0x00#8 => decodeN d .request
  | 0x01#8 => decodeN d .requestFast
  | 0x02#8 => decodeN d .release
  | 0x03#8 => decodeN d .isFree
  | 0x10#8 => decodeT d .transferFast
  | 0x11#8 => decodeT d .transfer
  | 0x12#8 => decodeF d .fill
  | 0x13#8 => decodeN d .wait
  | 0x20#8 => decodeT d .pushFast
  | 0x21#8 => decodeT d .push
  | 0x22#8 => decodeN d .flush
  | 0x23#8 => decodeN d .size
  | 0x24#8 => decodeN d .clear
  | _ => .rejected .reservedOp

/-- The instruction alone, where there is one. -/
def Decoded.instr? : Decoded → Option Instr
  | .ok i => some i
  | .rejected _ => none

/-! ## The encoder -/

/-- The selector of a target (rule R58). -/
def Target.code : Target → BitVec 8
  | .vram => 0#8
  | .cram => 1#8
  | .vsram => 2#8

/-- The seven fields side by side, `OP` at the top (rule R51). -/
def pack (op tgt inc val : BitVec 8) (len dest : BitVec 16) (src : BitVec 32) : Descriptor :=
  op ++ tgt ++ inc ++ val ++ len ++ dest ++ src

/-- A format N descriptor. -/
def packN (op : BitVec 8) : Descriptor := pack op 0#8 0#8 0#8 0#16 0#16 0#32

/-- A format T descriptor. -/
def packT (op : BitVec 8) (src : BitVec 32) (dest len : BitVec 16) (inc : Byte) (tgt : Target) : Descriptor :=
  pack op tgt.code inc 0#8 len dest src

/-- The operation code of an instruction (rule R54). -/
def Instr.opcode : Instr → BitVec 8
  | .request => 0x00#8
  | .requestFast => 0x01#8
  | .release => 0x02#8
  | .isFree => 0x03#8
  | .transferFast .. => 0x10#8
  | .transfer .. => 0x11#8
  | .fill .. => 0x12#8
  | .wait => 0x13#8
  | .pushFast .. => 0x20#8
  | .push .. => 0x21#8
  | .flush => 0x22#8
  | .size => 0x23#8
  | .clear => 0x24#8

/-- The descriptor of an instruction (rules R51, R52). -/
def encode (i : Instr) : Descriptor :=
  match i with
  | .request | .requestFast | .release | .isFree | .wait | .flush | .size | .clear => packN i.opcode
  | .transferFast src dest len inc tgt | .transfer src dest len inc tgt
  | .pushFast src dest len inc tgt | .push src dest len inc tgt => packT i.opcode src dest len inc tgt
  | .fill dest len val inc => pack i.opcode 0#8 inc val len dest 0#32

/-- The descriptor with the bits `w`, numbered as `spec/opcode_table.json` numbers them (bit 0 is bit 0 of the
descriptor), the bits at and above `nbits` zero. -/
def descriptorOfBits (nbits w : Nat) : Descriptor := BitVec.ofNat 96 (w % 2 ^ nbits)

/-- The instruction the decoder reads from the table's word `w`. -/
def decodeTableWord (nbits w : Nat) : Option Instr := (decode (descriptorOfBits nbits w)).instr?

/-! ## The opcode table as rows -/

/-- A row of `spec/opcode_table.json`: the bits its mask fixes. -/
structure OpRow where
  mnemonic : String
  mask     : Descriptor
  pattern  : Descriptor
  deriving DecidableEq, Repr

/-- The thirteen rows (rule R54), masks and matches as the table writes them. -/
def opcodeRows : List OpRow :=
  let all : Descriptor := 0xFFFFFFFFFFFFFFFFFFFFFFFF#96
  let tfr : Descriptor := 0xFFFC00FF0000000000000000#96
  let fil : Descriptor := 0xFFFF000000000000FFFFFFFF#96
  [⟨"REQUEST", all, 0x000000000000000000000000#96⟩, ⟨"REQUEST_FAST", all, 0x010000000000000000000000#96⟩,
   ⟨"RELEASE", all, 0x020000000000000000000000#96⟩, ⟨"IS_FREE", all, 0x030000000000000000000000#96⟩,
   ⟨"TRANSFER_FAST", tfr, 0x100000000000000000000000#96⟩, ⟨"TRANSFER", tfr, 0x110000000000000000000000#96⟩,
   ⟨"FILL", fil, 0x120000000000000000000000#96⟩, ⟨"WAIT", all, 0x130000000000000000000000#96⟩,
   ⟨"PUSH_FAST", tfr, 0x200000000000000000000000#96⟩, ⟨"PUSH", tfr, 0x210000000000000000000000#96⟩,
   ⟨"FLUSH", all, 0x220000000000000000000000#96⟩, ⟨"SIZE", all, 0x230000000000000000000000#96⟩,
   ⟨"CLEAR", all, 0x240000000000000000000000#96⟩]

/-- The row's fixed bits are those of the descriptor. -/
def OpRow.fits (r : OpRow) (d : Descriptor) : Bool := (d &&& r.mask) == r.pattern

/-- Two rows that no descriptor fits both: they differ in a bit both fix. -/
def OpRow.apart (r s : OpRow) : Bool := !((r.pattern ^^^ s.pattern) &&& r.mask &&& s.mask == 0#96)

end Sys2Proof
end

