-- ==== Sys2Proof/Machine/State.lean ====
section
/-! DEFINITION. The state of the machine, its faults and refusals, and the state after reset.

The architectural state of the CORE is three elements (rule R10): `slots` (`Q`), `cursor` (`CURSOR`) and `owner`
(`OWNER`). Beside them stand the event position (`todo`, rule R20), the host's side of the boundary (`hostIn`,
`responses`, rules R50, R53), the environment's answers to reads (`statusIn`, `busstatIn`, `draws`, rule R8), the trace
(rule R6), the devices at the boundary as far as the CORE's own accesses determine them (`vdp`, `bus`, rules R21 to R24,
R133, R134), and the parameters (`params`, rule R5). All of it is plain data. -/

namespace Sys2Proof.Machine

open Sys2Proof

/-! ## Ports and events -/

/-- The ports the CORE writes (rule R31). -/
inductive WritePort where
  | ctrl
  | data
  | busreq
  | copreset
  deriving DecidableEq, Repr

/-- The ports the CORE reads (rule R31). -/
inductive ReadPort where
  | status
  | busstat
  deriving DecidableEq, Repr

/-- One 16-bit port access, the atomic step of the CORE (rules R6, R8, R36): `W port value` or `R port -> value`. -/
inductive Event where
  | write (port : WritePort) (value : Word)
  | read (port : ReadPort) (value : Word)
  deriving DecidableEq, Repr

/-- The answer to one command (rule R53). -/
structure Response where
  ok    : Bool
  value : Word
  deriving DecidableEq, Repr

/-! ## The CORE -/

/-- One queue slot: the eight control-port words of rule R12, in the order they are written. -/
structure DmaCommand where
  autoinc : Word
  lenl    : Word
  lenh    : Word
  srcl    : Word
  srcm    : Word
  srch    : Word
  trigh   : Word
  trigl   : Word
  deriving DecidableEq, Repr

/-- The two-state ownership flag of rule R15. -/
inductive Owner where
  /-- `COPROC` -/
  | coproc
  /-- `MAIN` -/
  | main
  deriving DecidableEq, Repr

/-- One line of an operation's pseudocode. The lines still to run are the event position of rule R20. A line makes one
event or one internal update each time it runs, which is one step (rule R8, log entry 10); the last four make an
internal update, the others an event. -/
inductive Micro where
  /-- `MemWrite(port, 2, value)`. -/
  | write (port : WritePort) (value : Word)
  /-- `MemWrite(CTRL, 2, x[Q][i][k])`, a line of FLUSH (rule R102). -/
  | writeSlot (i : Nat) (k : Fin 8)
  /-- The first three lines of REQUEST (rule R71): the pairing check, the `BUSREQ` write, `OWNER <- MAIN`. -/
  | acquire
  /-- `request_fast()` (rule R72). -/
  | acquireFast
  /-- `release()` (rule R73). -/
  | release
  /-- `wait()` (rule R89): read `STATUS` until the in-flight bit is clear. -/
  | pollStatus
  /-- The loop of REQUEST (rule R71): read `BUSSTAT` until `GRANTED`. -/
  | pollGrant
  /-- IS_FREE (rule R74): one `BUSSTAT` read, after which the response computed from it is the line to run. -/
  | reportFree
  /-- `x[Q][x[CURSOR]][k] <- c[k]`, a line of `push_fast` (rule R100), which tests for the overflow first. -/
  | storeField (k : Fin 8) (value : Word)
  /-- `x[CURSOR] <- x[CURSOR] + 1` (rule R100). -/
  | advanceCursor
  /-- `x[CURSOR] <- 0` (rules R102, R104). -/
  | emptyQueue
  /-- `rsp(ok, value)` (rule R6): the operation ends. -/
  | respond (ok : Bool) (value : Word)
  deriving DecidableEq, Repr

/-! ## The devices at the boundary -/

/-- What a started operation moves (rule R133). -/
inductive DmaMovement where
  /-- A copy from the main address space, from the word address that the three source registers held (rule R21). -/
  | copy (wordAddress : BitVec 24)
  /-- A fill: it takes its data from the seed word written after the trigger (rule R133 (e)); `none` until that comes. -/
  | fill (seed : Option Word)
  deriving DecidableEq, Repr

/-- A copy or fill that the video coprocessor has started, as its registers were at the trigger (rules R21, R133). -/
structure DmaOperation where
  /-- The address/trigger command, whose base chooses the target memory (rules R57, R133 (g)). -/
  command        : BitVec 32
  /-- The programmed length: the two length registers. -/
  length         : Word
  /-- The autoincrement register. -/
  increment      : Byte
  /-- A copy, or a fill with its seed. -/
  movement       : DmaMovement
  /-- It, or the operation before it, may have been in flight when the later of the two was started, so that its data may be
  any value (rule R133 (c), U9). -/
  mayBeCorrupted : Bool
  deriving DecidableEq, Repr

/-- The video coprocessor as far as the CORE's writes determine it (rules R21, R24, R37, R133). The CORE reads none of
it back. -/
structure Vdp where
  /-- The six DMA registers of rule R21. -/
  autoinc        : Byte
  lenl           : Byte
  lenh           : Byte
  srcl           : Byte
  srcm           : Byte
  srch           : Byte
  /-- "The fill-source-select bit" (rules R61, R133 (e)). -/
  fillSource     : Bool
  /-- The half-written trigger of rule R24: a trigger-high whose trigger-low has not come yet. -/
  half           : Option Word
  /-- The last control word was the trigger-low of a command that started a copy or fill: the same word again would start a
  second one (rule R37). -/
  armed          : Bool
  /-- The copies and fills the control words have started (rules R37, R133 (b) to (e)), the first started first: a record
  (log entry 19). -/
  operations     : List DmaOperation
  /-- The last address/trigger command received whole (rule R57). -/
  command        : Option (BitVec 32)
  /-- The seed word last written to the `DATA` port (rules R37 (c), R133 (e)). -/
  seed           : Option Word
  /-- The in-flight flag of rule R24, as the CORE can know it: a copy or fill has been started and no `STATUS` read
  since has shown the in-flight bit clear. -/
  mayBeInFlight  : Bool
  /-- MODEL'S OWN: how many `STATUS` reads it has answered, the index of the free value `Config.statusReadEffect` (log
  entry 27). -/
  statusReads    : Nat
  deriving DecidableEq, Repr

/-- Whether the sound co-processor is halted (rules R24, R77). -/
inductive CoprocHalt where
  /-- not known to be halted -/
  | running
  /-- inside a REQUEST_FAST bracket: halted for what it can observe at the control port, not for the purpose of touching
  its memory (rule R77, decision D23) -/
  | silenced
  /-- inside a REQUEST bracket, after the `BUSSTAT` read that satisfied `GRANTED` -/
  | halted
  deriving DecidableEq, Repr

/-- The platform's bus-control logic as far as the CORE's accesses determine it (rules R23, R24, R134). -/
structure BusControl where
  /-- The bus-request register: the last word written to `BUSREQ`. -/
  busreq            : Word
  /-- The co-processor reset register: the last word written to `COPRESET`. -/
  copreset          : Word
  /-- The reset sequence of rule R24, as the CORE can know it: one may be in progress, since the CORE has not ended it (log
  entries 8, 29). -/
  copResetMayBeOn   : Bool
  /-- The co-processor. -/
  coproc            : CoprocHalt
  deriving DecidableEq, Repr

/-! ## The state -/

/-- The whole state. -/
structure State where
  /-- The parameters of rule R5: no step writes them. -/
  params    : Params
  /-- `Q` (rule R11), slot 0 first. -/
  slots     : List DmaCommand
  /-- `CURSOR` (rule R13). -/
  cursor    : Nat
  /-- `OWNER` (rule R15). -/
  owner     : Owner
  /-- The event position (rule R20): what the executing operation still has to do; empty when the sequencer is idle. -/
  todo      : List Micro
  /-- The descriptors the host is going to present, first first (rules R50, R136). -/
  hostIn    : List Descriptor
  /-- The environment's answers to the coming `STATUS` reads (rule R8); where there is none, the answer is the free
  value `Config.statusDraw`. -/
  statusIn  : List Word
  /-- The environment's answers to the coming `BUSSTAT` reads. -/
  busstatIn : List Word
  /-- MODEL'S OWN: how many reads have been answered by a free value (log entry 4). -/
  draws     : Nat
  /-- The trace (rule R6), oldest event first. -/
  trace     : List Event
  /-- The responses given (rule R53), oldest first. -/
  responses : List Response
  /-- The video coprocessor. -/
  vdp       : Vdp
  /-- The bus-control logic and the sound co-processor. -/
  bus       : BusControl
  deriving DecidableEq, Repr

/-! ## How a step can stop -/

/-- The three faults of rule R124. The state after one is not defined, and none is kept: a faulting step has no next
state. -/
inductive Fault where
  /-- Rule R125: the descriptor is not a legal encoding. Raised by `step` when it decodes. Safe: the machine stops. -/
  | illegalCommand
  /-- Rule R126: an acquire while `OWNER = MAIN` or a release while `OWNER = COPROC`. Raised by the lines `acquire`,
  `acquireFast`, `release`. Safe: the machine stops. -/
  | busProtocol
  /-- Rule R127: PUSH_FAST on a full queue. Raised by the line `storeField`. Safe: the machine stops. -/
  | queueOverflow
  deriving DecidableEq, Repr

/-- What the model refuses. -/
inductive Refusal where
  /-- An instruction without a meaning. Raised by no arm of this model: every instruction has its meaning. Safe. -/
  | notModelled (mnemonic : String)
  /-- A command issued before the previous one has responded (U3, rules R78, R108, R157: "two commands executing at once
  are not" well defined; the spec's treatment is to refuse). Raised by a meaning called on a state that is not idle;
  `step` never calls one there. Safe: the machine stops. -/
  | commandWhileBusy
  deriving DecidableEq, Repr

/-! ## Reset -/

/-- A slot of zeros: what a slot holds after reset (log entry 6). -/
def DmaCommand.zero : DmaCommand := ⟨0, 0, 0, 0, 0, 0, 0, 0⟩

/-- The video coprocessor after reset; the spec gives no value (N20), zero and "nothing received" (log entry 7). -/
def Vdp.reset : Vdp where
  autoinc       := 0
  lenl          := 0
  lenh          := 0
  srcl          := 0
  srcm          := 0
  srch          := 0
  fillSource    := false
  half          := none
  armed         := false
  operations    := []
  command       := none
  seed          := none
  mayBeInFlight := false
  statusReads   := 0

/-- The bus-control logic after reset: neither the bus-request nor the co-processor reset register is asserted (the table of
rule R25, R144 (b)). Of the state the co-processor itself is in nothing is known (N20): a reset sequence may be in
progress, and it is not known to be halted (log entry 8). -/
def BusControl.reset (p : Params) : BusControl where
  busreq          := p.busreqRelease
  copreset        := p.copresetRelease
  copResetMayBeOn := true
  coproc          := .running

/-- The state after reset for the parameters `p` (rules R25, R141): the queue is empty, the co-processor owns the bus, no
operation is executing, no port access has been made. -/
def State.resetWith (p : Params) : State where
  params    := p
  slots     := List.replicate p.qcap DmaCommand.zero
  cursor    := 0
  owner     := .coproc
  todo      := []
  hostIn    := []
  statusIn  := []
  busstatIn := []
  draws     := 0
  trace     := []
  responses := []
  vdp       := Vdp.reset
  bus       := BusControl.reset p

/-- The state after reset, with the default parameters. -/
def State.reset : State := State.resetWith Params.default

end Sys2Proof.Machine
end

