-- ==== Sys2Proof/Machine/Flags.lean ====
section
/-! DEFINITION. What plays the part of flags (rule R17): the predicates on the two status words, the derived states of the
queue, the failure conditions, and the response as bits. No operation writes a flag as a side effect. -/

namespace Sys2Proof.Machine

open Sys2Proof

/-- `DMA_BUSY(s)` (rule R84): bit `STATUS_DMA_BIT` of the status word is 1; no other bit is looked at. -/
def dmaBusy (p : Params) (s : Word) : Bool := s.getLsbD p.statusDmaBit

/-- `GRANTED(b)` (rule R70): `(b & BUSSTAT_MASK) = BUSSTAT_FREE`. -/
def granted (p : Params) (b : Word) : Bool := (b &&& p.busstatMask) == p.busstatFree

/-- The three named states of the queue (rule R16). -/
inductive QueueState where
  | empty
  | accumulating
  | full
  deriving DecidableEq, Repr

/-- The state of a queue, a function of `CURSOR` and `QCAP` (rule R16). -/
def queueState (qcap cursor : Nat) : QueueState :=
  if cursor = 0 then .empty else if cursor = qcap then .full else .accumulating

/-- The failure "bad increment" (rule R120): `INC < 2`, unsigned. -/
def badIncrement (inc : Byte) : Bool := decide (inc.toNat < 2)

/-- The failure "zero length" (rule R120): `LEN = 0`. -/
def zeroLength (len : BitVec 16) : Bool := len == 0#16

/-- The failure "short fill" (rule R120): `LEN < 2`. -/
def shortFill (len : BitVec 16) : Bool := decide (len.toNat < 2)

/-- `QCAP - CURSOR`, the number of free slots (rules R80, R101). -/
def freeSlots (s : State) : Nat := s.params.qcap - s.cursor

/-- The response as 17 bits (rule R53): `ok` on top of `value`. -/
def Response.bits (r : Response) : BitVec 17 := BitVec.ofBool r.ok ++ r.value

end Sys2Proof.Machine
end

