-- ==== Sys2Proof/Machine/Operands.lean ====
section
/-! DEFINITION. The operand arithmetic of the CORE: the register-write word, the trigger command, `BUILD`, the window
arithmetic and the split (rules R55 to R61, R80 to R83, R86), and the platform addresses of the ports (rule R40). -/

namespace Sys2Proof.Machine

open Sys2Proof

/-- The high byte of a 16-bit quantity, bits 15:8 (rules R35, R56). -/
def hiByte (w : BitVec 16) : Byte := w.extractLsb' 8 8

/-- The low byte of a 16-bit quantity, bits 7:0. -/
def loByte (w : BitVec 16) : Byte := w.extractLsb' 0 8

/-- `REGW(sel, v)` (rule R55): `0x8000 | (sel << REGW_SEL_LSB) | v`. -/
def regw (p : Params) (sel : BitVec 5) (v : Byte) : Word :=
  0x8000#16 ||| (sel.setWidth 16 <<< p.regwSelLsb) ||| v.setWidth 16

/-- `TRIG(base, dest)` (rule R57): the low 14 bits of `dest` into bits 29:16, its top two bits into bits 1:0. -/
def trig (base : BitVec 32) (dest : BitVec 16) : BitVec 32 :=
  base ||| ((dest.extractLsb' 0 14).setWidth 32 <<< 16) ||| (dest.extractLsb' 14 2).setWidth 32

/-- The more significant half of a 32-bit command, which is written first (rule R34). -/
def hiHalf (t : BitVec 32) : Word := t.extractLsb' 16 16

/-- The less significant half. -/
def loHalf (t : BitVec 32) : Word := t.extractLsb' 0 16

/-- The base command a target selects (rule R58). -/
def baseDma (p : Params) : Target → BitVec 32
  | .vram => p.baseDma.vram
  | .cram => p.baseDma.cram
  | .vsram => p.baseDma.vsram

/-- `BUILD` (rule R59). It checks nothing. -/
def build (p : Params) (src : BitVec 32) (dest len : BitVec 16) (inc : Byte) (tgt : Target) : DmaCommand :=
  let w := src >>> 1
  let t := trig (baseDma p tgt) dest
  { autoinc := regw p p.selAutoinc inc
    lenl    := regw p p.selLenl (loByte len)
    lenh    := regw p p.selLenh (hiByte len)
    srcl    := regw p p.selSrcl (w.extractLsb' 0 8)
    srcm    := regw p p.selSrcm (w.extractLsb' 8 8)
    srch    := regw p p.selSrch (w.extractLsb' 16 8 &&& p.srchMask)
    trigh   := hiHalf t
    trigl   := loHalf t }

/-- The eight field indexes, in the order of rule R12. -/
def fieldIndices : List (Fin 8) := [0, 1, 2, 3, 4, 5, 6, 7]

/-- Field `k` of a command (rules R12, R60). -/
def DmaCommand.word (c : DmaCommand) : Fin 8 → Word
  | 0 => c.autoinc
  | 1 => c.lenl
  | 2 => c.lenh
  | 3 => c.srcl
  | 4 => c.srcm
  | 5 => c.srch
  | 6 => c.trigh
  | 7 => c.trigl

/-- A command with field `k` set (rule R100). -/
def DmaCommand.setWord (k : Fin 8) (v : Word) (c : DmaCommand) : DmaCommand :=
  match k with
  | 0 => { c with autoinc := v }
  | 1 => { c with lenl := v }
  | 2 => { c with lenh := v }
  | 3 => { c with srcl := v }
  | 4 => { c with srcm := v }
  | 5 => { c with srch := v }
  | 6 => { c with trigh := v }
  | 7 => { c with trigl := v }

/-- The eight words in the order they are written (rule R12). -/
def DmaCommand.words (c : DmaCommand) : List Word := fieldIndices.map c.word

/-- The seed word of a fill (rule R61): the byte in both halves. -/
def seedWord (v : Byte) : Word := (v.setWidth 16 <<< 8) ||| v.setWidth 16

/-! ## The 128 KiB windows -/

/-- `REMAIN(src)` (rule R83): whole 16-bit words from `src` to the next window boundary, a natural number. -/
def remain (src : BitVec 32) : Nat := (0x20000 - (src &&& 0x1FFFF#32).toNat) >>> 1

/-- A transfer crosses when `len > REMAIN(src)`, compared as naturals (rules R80, R82). -/
def crosses (src : BitVec 32) (len : BitVec 16) : Bool := decide (remain src < len.toNat)

/-- One physical transfer: what one trigger moves. -/
structure Segment where
  src  : BitVec 32
  dest : BitVec 16
  len  : BitVec 16
  deriving DecidableEq, Repr

/-- The tail of a split (rule R86): `(SRC + 2*r) mod 2^32`, `(DEST + 2*r) mod 2^16`, `LEN - r`. -/
def tailSegment (src : BitVec 32) (dest len : BitVec 16) : Segment :=
  let r := remain src
  { src := src + BitVec.ofNat 32 (2 * r)
    dest := dest + BitVec.ofNat 16 (2 * r)
    len := BitVec.ofNat 16 (len.toNat - r) }

/-- The head of a split (rule R86): the original addresses, length `r`. -/
def headSegment (src : BitVec 32) (dest : BitVec 16) : Segment :=
  { src := src, dest := dest, len := BitVec.ofNat 16 (remain src) }

/-- What TRANSFER issues and PUSH enqueues, in order (rules R86, R101): the tail then the head of a crossing request, else
the request whole. -/
def segments (src : BitVec 32) (dest len : BitVec 16) : List Segment :=
  if crosses src len then [tailSegment src dest len, headSegment src dest] else [⟨src, dest, len⟩]

/-- The command of a segment. -/
def Segment.build (p : Params) (g : Segment) (inc : Byte) (tgt : Target) : DmaCommand :=
  Machine.build p g.src g.dest g.len inc tgt

/-! ## Port addresses -/

/-- The platform address of a port the CORE writes (rules R31, R40). -/
def WritePort.address (p : Params) : WritePort → BitVec 32
  | .ctrl => p.addrCtrl
  | .data => p.addrData
  | .busreq => p.addrBusreq
  | .copreset => p.addrCopreset

/-- The platform address of a port the CORE reads: `STATUS` shares `ADDR_CTRL`, `BUSSTAT` shares `ADDR_BUSREQ`
(rules R5, R31). -/
def ReadPort.address (p : Params) : ReadPort → BitVec 32
  | .status => p.addrCtrl
  | .busstat => p.addrBusreq

end Sys2Proof.Machine
end

