-- ==== Sys2Proof/Machine/Devices.lean ====
section
/-! DEFINITION. What the CORE's port accesses do to the devices at its boundary, as far as the spec says it (rules R21 to
R24, R37, R77, R133, R134). Nothing here feeds back into the CORE: its reads are answered by the environment (rule R8). -/

namespace Sys2Proof.Machine

open Sys2Proof

/-! ## The video coprocessor -/

/-- A control word with top two bits `10` is a register-write word (rule R55). -/
def isRegWrite (v : Word) : Bool := v.extractLsb' 14 2 == 0b10#2

/-- The select code of a register-write word. -/
def selectOf (p : Params) (v : Word) : BitVec 5 := v.extractLsb' p.regwSelLsb 5

/-- The fill-source-select bit after a register-write word: it is set by the word `FILL_SELECT`, and lost when the same
register is given another value (log entry 9). -/
def fillSourceAfter (p : Params) (v : Word) (before : Bool) : Bool :=
  if selectOf p v = selectOf p p.fillSelect then v == p.fillSelect else before

/-- "A register-write word sets the selected register to the value in its low byte" (rule R133 (a)), for the six
registers of rule R21; any other register is outside the spec. -/
def Vdp.latch (p : Params) (v : Word) (d : Vdp) : Vdp :=
  let sel := selectOf p v
  let d := { d with fillSource := fillSourceAfter p v d.fillSource }
  if sel = p.selAutoinc then { d with autoinc := loByte v }
  else if sel = p.selLenl then { d with lenl := loByte v }
  else if sel = p.selLenh then { d with lenh := loByte v }
  else if sel = p.selSrcl then { d with srcl := loByte v }
  else if sel = p.selSrcm then { d with srcm := loByte v }
  else if sel = p.selSrch then { d with srch := loByte v }
  else d

/-- A 32-bit command with the destination taken out: bits 29:16 and 1:0 cleared (rule R57). -/
def commandBase (t : BitVec 32) : BitVec 32 := t &&& 0xC000FFFC#32

/-- The base of the command is a DMA-triggering address-set (rules R57, R133 (b)). -/
def startsDma (p : Params) (t : BitVec 32) : Bool :=
  commandBase t == p.baseDma.vram || commandBase t == p.baseDma.cram || commandBase t == p.baseDma.vsram

/-- A list with its last member changed. -/
def updateLast {α : Type} (f : α → α) : List α → List α
  | [] => []
  | [a] => [f a]
  | a :: b :: rest => a :: updateLast f (b :: rest)

/-- The operation may be corrupted by another one (rule R133 (c), U9). -/
def DmaOperation.disturbed (o : DmaOperation) : DmaOperation := { o with mayBeCorrupted := true }

/-- A seed word has come: a fill that has none takes it (rule R133 (e)). -/
def DmaOperation.takeSeed (v : Word) (o : DmaOperation) : DmaOperation :=
  match o.movement with
  | .fill none => { o with movement := .fill (some v) }
  | .fill (some _) | .copy _ => o

/-- How many bytes the operation writes: a copy two for each word of its length; a fill "a full word on the first cycle and
then one byte per subsequent autoincrement step", the programmed length counting the cycles, so `N` bytes for a programmed
length of `N - 1` (rules R88, R133 (d)). Nothing is said of a programmed length of 0 (N21, N26). -/
def DmaOperation.bytes (o : DmaOperation) : Option Nat :=
  if o.length = 0#16 then none
  else match o.movement with
    | .copy _ => some (2 * o.length.toNat)
    | .fill _ => some (2 + (o.length.toNat - 1))

/-- How many copies and fills have been started. -/
def Vdp.starts (d : Vdp) : Nat := d.operations.length

/-- The copy or fill that the command `t` starts: a fill when the fill-source-select bit is set, else a copy (rules R61, R133
(b), (e)). Where one may still be in flight, it may be corrupted (rule R133 (c), U9). -/
def Vdp.operation (t : BitVec 32) (d : Vdp) : DmaOperation where
  command        := t
  length         := d.lenh ++ d.lenl
  increment      := d.autoinc
  movement       := if d.fillSource then .fill none else .copy (d.srch ++ d.srcm ++ d.srcl)
  mayBeCorrupted := d.mayBeInFlight

/-- The operations so far, once a new one starts: where the last may still be in flight, it may be corrupted (rule R133 (c)).
Of the earlier ones, any that may be in flight with it has been marked when the one after it started. -/
def Vdp.overtaken (d : Vdp) : List DmaOperation :=
  if d.mayBeInFlight then updateLast DmaOperation.disturbed d.operations else d.operations

/-- The command `t` starts a copy or fill (rules R37 (b), R133 (b)). DESIGN CHOICE: it starts in every state of the device,
the state after reset among them; whether the device needs a display mode or a DMA enable first is not in the source (R144,
N20; log entry 30). -/
def Vdp.start (t : BitVec 32) (d : Vdp) : Vdp :=
  { d with armed := true, operations := d.overtaken ++ [d.operation t], mayBeInFlight := true }

/-- The second half of an address/trigger command: the command is whole, and if its base is DMA-triggering a copy or fill
starts (rules R37 (b), R133 (b)), whatever set-up the device has had (log entry 30). -/
def Vdp.complete (p : Params) (hi lo : Word) (d : Vdp) : Vdp :=
  let d := { d with half := none, armed := false, command := some (hi ++ lo) }
  if startsDma p (hi ++ lo) then d.start (hi ++ lo) else d

/-- The command that the word starts once more, where it is the trigger-low that has just started a copy or fill (rule
R37). -/
def Vdp.repeats (v : Word) (d : Vdp) : Option (BitVec 32) :=
  if d.armed then d.command.filter fun t => loHalf t == v else none

/-- A write to the control port (rules R37, R133): the second half of a half-written trigger; else a register-write word;
else, where it repeats a trigger-low, the start of a second copy or fill; else the first half of an address/trigger
command (log entry 9). -/
def Vdp.control (p : Params) (v : Word) (d : Vdp) : Vdp :=
  match d.half with
  | some hi => d.complete p hi v
  | none =>
    if isRegWrite v then { d.latch p v with armed := false }
    else match d.repeats v with
      | some t => d.start t
      | none => { d with half := some v, armed := false }

/-- A write to the data port: the seed word of a fill (rules R37 (c), R133 (e)), for the operation last started (log entry
32). -/
def Vdp.data (v : Word) (d : Vdp) : Vdp :=
  { d with seed := some v, operations := updateLast (DmaOperation.takeSeed v) d.operations }

/-- What a `STATUS` read may change of what the CORE's writes have put into the device. -/
def Vdp.latched (d : Vdp) : LatchedState where
  autoinc    := d.autoinc
  lenl       := d.lenl
  lenh       := d.lenh
  srcl       := d.srcl
  srcm       := d.srcm
  srch       := d.srch
  fillSource := d.fillSource
  half       := d.half
  armed      := d.armed

/-- The status word `w` has been read. If its in-flight bit is clear, no copy or fill is in flight (rules R22, R89). Whether
the read changes what the CORE's writes have put into the device is not in the source (rule R37 (f), N22): the six
registers, the fill-source-select bit and the fate of a half-written or just-written trigger are free values, by how many
reads came before and what the device held (DESIGN CHOICE: not by the word read, nor by the records of what was written; log
entry 27). A trigger is half written or repeatable only by a write (rules R24, R37), so a read makes none so. -/
def Vdp.statusRead (p : Params) (w : Word) (d : Vdp) : Vdp :=
  let e := Config.statusReadEffect d.statusReads d.latched
  { d with
    autoinc := e.autoinc
    lenl := e.lenl
    lenh := e.lenh
    srcl := e.srcl
    srcm := e.srcm
    srch := e.srch
    fillSource := e.fillSource
    half := match d.half with
      | none => none
      | some _ => e.half
    armed := d.armed && e.armed
    mayBeInFlight := d.mayBeInFlight && dmaBusy p w
    statusReads := d.statusReads + 1 }

/-! ## The bus-control logic and the co-processor -/

/-- A write to the bus-request register (rules R23, R134 (a)); a release lets the co-processor run (rule R37 (d)). -/
def BusControl.request (p : Params) (v : Word) (b : BusControl) : BusControl :=
  { b with busreq := v, coproc := if v = p.busreqRelease then .running else b.coproc }

/-- A write to the co-processor reset register (rule R23): `COPRESET_RELEASE` ends a reset sequence (rules R37 (e), R134 (b)).
DESIGN CHOICE, unsafe: the spec does not say whether another sequence can begin after that, and in the model none does (log
entry 29). -/
def BusControl.endCopReset (p : Params) (v : Word) (b : BusControl) : BusControl :=
  { b with copreset := v, copResetMayBeOn := if v = p.copresetRelease then false else b.copResetMayBeOn }

/-- The co-processor's state at the events that change it (rule R77). -/
def BusControl.setCoproc (h : CoprocHalt) (b : BusControl) : BusControl := { b with coproc := h }

end Sys2Proof.Machine
end

