-- ==== Sys2Proof/Machine/Ops.lean ====
section
/-! DEFINITION. The named operations over the state: port accesses, the pairing checks, the queue, the response, and the
sequencer that runs one line of an operation at a time (rules R6, R8, R20, R36, R42, R112, R114).

The CORE has no exception to take and none to return from (rules R129, R131): what stands in that place is the response
(`respond`) and the fault, which has no next state (rule R124). -/

namespace Sys2Proof.Machine

open Sys2Proof

/-- The outcome of one step of this machine. -/
abbrev Result := Host.Outcome State Fault Refusal

/-- Run `k` on the next state, if there is one. -/
def Result.andThen (r : Result) (k : State → Result) : Result :=
  match r with
  | .next s => k s
  | .fault f => .fault f
  | .refused f => .refused f

/-! ## Port accesses (rules R31, R34, R36, R114) -/

/-- Append one event to the trace (rule R6). -/
def State.emit (e : Event) (s : State) : State := { s with trace := s.trace ++ [e] }

/-- What a write does at the device behind the port (rule R37). -/
def State.deviceWrite (port : WritePort) (v : Word) (s : State) : State :=
  match port with
  | .ctrl => { s with vdp := s.vdp.control s.params v }
  | .data => { s with vdp := s.vdp.data v }
  | .busreq => { s with bus := s.bus.request s.params v }
  | .copreset => { s with bus := s.bus.endCopReset s.params v }

/-- `MemWrite(port, 2, v)` (rule R6). -/
def State.memWrite (port : WritePort) (v : Word) (s : State) : State := (s.deviceWrite port v).emit (.write port v)

/-- The word the environment answers to the next `STATUS` read (rule R8): the next listed answer, else a free value. -/
def State.statusWord (s : State) : Word :=
  match s.statusIn with
  | w :: _ => w
  | [] => Config.statusDraw s.draws

/-- The word the environment answers to the next `BUSSTAT` read. -/
def State.busstatWord (s : State) : Word :=
  match s.busstatIn with
  | w :: _ => w
  | [] => Config.busstatDraw s.draws

/-- `MemRead(STATUS, 2)`: the state after the read; the word is `s.statusWord`. -/
def State.readStatus (s : State) : State :=
  let w := s.statusWord
  { s with
    statusIn := s.statusIn.tail
    draws := if s.statusIn = [] then s.draws + 1 else s.draws
    vdp := s.vdp.statusRead s.params w
    trace := s.trace ++ [.read .status w] }

/-- `MemRead(BUSSTAT, 2)`: the state after the read; the word is `s.busstatWord`. -/
def State.readBusstat (s : State) : State :=
  { s with
    busstatIn := s.busstatIn.tail
    draws := if s.busstatIn = [] then s.draws + 1 else s.draws
    trace := s.trace ++ [.read .busstat s.busstatWord] }

/-! ## The arbiter's lines (rules R71 to R73) -/

/-- The word of the bus-request register that belongs to an owner (rule R15). -/
def Owner.busreqWord (p : Params) : Owner → Word
  | .coproc => p.busreqRelease
  | .main => p.busreqAssert

/-- `W BUSREQ` and the new `OWNER`, one step (rule R15, decision D15). -/
def State.setOwner (o : Owner) (s : State) : State :=
  { s.memWrite .busreq (o.busreqWord s.params) with owner := o }

/-- The co-processor's state (rule R77). -/
def State.setCoproc (h : CoprocHalt) (s : State) : State := { s with bus := s.bus.setCoproc h }

/-! ## The queue (rules R11 to R14, R100) -/

/-- `x[Q][i][k]`; a free value for a slot that does not exist, which no state that meets the invariant reads. -/
def State.slotWord (s : State) (i : Nat) (k : Fin 8) : Word :=
  match s.slots[i]? with
  | some c => c.word k
  | none => Config.absentSlotWord (8 * i + k)

/-- `x[Q][x[CURSOR]][k] <- v` (rule R100). -/
def State.storeField (k : Fin 8) (v : Word) (s : State) : State :=
  { s with slots := s.slots.modify s.cursor (DmaCommand.setWord k v) }

/-- `x[CURSOR] <- n` (rules R100, R102, R104). -/
def State.setCursor (n : Nat) (s : State) : State := { s with cursor := n }

/-! ## Responding -/

/-- `rsp(ok, value)` (rules R6, R53): the response is given and the sequencer is idle. -/
def State.respond (ok : Bool) (value : Word) (s : State) : State :=
  { s with responses := s.responses ++ [⟨ok, value⟩], todo := [] }

/-! ## The sequencer -/

/-- The event position moves on (rule R20). -/
def State.goOn (rest : List Micro) (s : State) : State := { s with todo := rest }

/-- An acquire (rule R75): a fault while `OWNER = MAIN`, before its event. -/
def acquire (h : State → State) (rest : List Micro) (s : State) : Result :=
  match s.owner with
  | .main => .fault .busProtocol
  | .coproc => .next ((h (s.setOwner .main)).goOn rest)

/-- A release (rule R75): a fault while `OWNER = COPROC`, before its event. -/
def release (rest : List Micro) (s : State) : Result :=
  match s.owner with
  | .coproc => .fault .busProtocol
  | .main => .next ((s.setOwner .coproc).goOn rest)

/-- Store one field of the slot at `CURSOR`. The overflow test of `push_fast` comes before any state change (rules R100,
R127); `CURSOR` does not move between the eight stores, so it can fail only at the first. -/
def store (k : Fin 8) (v : Word) (rest : List Micro) (s : State) : Result :=
  if s.params.qcap ≤ s.cursor then .fault .queueOverflow else .next ((s.storeField k v).goOn rest)

/-- Run one line of an operation: one event or one internal update (rule R8). `rest` is what comes after the line. -/
def perform (m : Micro) (rest : List Micro) (s : State) : Result :=
  match m with
  | .write port v => .next ((s.memWrite port v).goOn rest)
  | .writeSlot i k => .next ((s.memWrite .ctrl (s.slotWord i k)).goOn rest)
  | .acquire => acquire id rest s
  | .acquireFast => acquire (State.setCoproc .silenced) rest s
  | .release => release rest s
  | .pollStatus => .next (s.readStatus.goOn (if dmaBusy s.params s.statusWord then .pollStatus :: rest else rest))
  | .pollGrant =>
    .next (if granted s.params s.busstatWord then (s.readBusstat.setCoproc .halted).goOn rest
      else s.readBusstat.goOn (.pollGrant :: rest))
  | .reportFree =>
    .next (s.readBusstat.goOn (.respond true (if granted s.params s.busstatWord then 1#16 else 0#16) :: rest))
  | .storeField k v => store k v rest s
  | .advanceCursor => .next ((s.setCursor (s.cursor + 1)).goOn rest)
  | .emptyQueue => .next ((s.setCursor 0).goOn rest)
  | .respond ok value => .next (s.respond ok value)

/-- One step of the executing operation; nothing when the sequencer is idle. -/
def advance (s : State) : Result :=
  match s.todo with
  | [] => .next s
  | m :: rest => perform m rest s

/-- A 32-bit write (rule R34): two 16-bit writes, the more significant half first. -/
def write32 (port : WritePort) (v : BitVec 32) : List Micro := [.write port (hiHalf v), .write port (loHalf v)]

/-! ## Accepting a command -/

/-- A command is accepted only by an idle sequencer (rules R50, R78, R108; U3). -/
def whenIdle (s : State) (k : State → Result) : Result :=
  match s.todo with
  | [] => k s
  | _ :: _ => .refused .commandWhileBusy

/-- Start an operation: its lines become the event position and the first of them runs. -/
def start (code : List Micro) (s : State) : Result :=
  whenIdle s fun s => advance { s with todo := code }

end Sys2Proof.Machine
end

