-- ==== Sys2Proof/Machine/Arbiter.lean ====
section
/-! DEFINITION. The bus arbiter: REQUEST, REQUEST_FAST, RELEASE, IS_FREE (rules R71 to R74). -/

namespace Sys2Proof.Machine

open Sys2Proof

/-- REQUEST (rule R71): the bus request, the end of a co-processor reset, then the poll. -/
def requestCode (p : Params) : List Micro :=
  [.acquire, .write .copreset p.copresetRelease, .pollGrant, .respond true 0#16]

/-- REQUEST (rule R71). -/
def execRequest (s : State) : Host.Outcome State Fault Refusal := start (requestCode s.params) s

/-- REQUEST_FAST (rule R72). -/
def execRequestFast (s : State) : Host.Outcome State Fault Refusal := start [.acquireFast, .respond true 0#16] s

/-- RELEASE (rule R73). -/
def execRelease (s : State) : Host.Outcome State Fault Refusal := start [.release, .respond true 0#16] s

/-- IS_FREE (rule R74): one read, the answer from the word read. -/
def execIsFree (s : State) : Host.Outcome State Fault Refusal := start [.reportFree] s

end Sys2Proof.Machine
end

