-- ==== Sys2Proof/Machine/Engine.lean ====
section
/-! DEFINITION. The DMA engine: TRANSFER_FAST, TRANSFER, FILL, WAIT (rules R85, R86, R88, R89). -/

namespace Sys2Proof.Machine

open Sys2Proof

/-- The lines of `transfer_fast(...)` for the words `c` (rule R85): the wait, seven control words, and the eighth inside
the bracket. -/
def transferFastCode (c : DmaCommand) : List Micro :=
  [.pollStatus, .write .ctrl c.autoinc, .write .ctrl c.lenl, .write .ctrl c.lenh, .write .ctrl c.srcl,
   .write .ctrl c.srcm, .write .ctrl c.srch, .write .ctrl c.trigh, .acquireFast, .write .ctrl c.trigl, .release]

/-- TRANSFER_FAST (rule R85): one DMA operation, no checks. -/
def execTransferFast (src : BitVec 32) (dest len : BitVec 16) (inc : Byte) (tgt : Target) (s : State) :
    Host.Outcome State Fault Refusal :=
  start (transferFastCode (build s.params src dest len inc tgt) ++ [.respond true 0#16]) s

/-- The lines of TRANSFER after its checks (rule R86): `transfer_fast` for each segment, tail first. -/
def transferCode (p : Params) (src : BitVec 32) (dest len : BitVec 16) (inc : Byte) (tgt : Target) : List Micro :=
  (segments src dest len).flatMap (fun g => transferFastCode (g.build p inc tgt)) ++ [.respond true 0#16]

/-- TRANSFER (rule R86): a parameter failure responds `(0, 0)` with no event and no state change. -/
def execTransfer (src : BitVec 32) (dest len : BitVec 16) (inc : Byte) (tgt : Target) (s : State) :
    Host.Outcome State Fault Refusal :=
  if badIncrement inc || zeroLength len then start [.respond false 0#16] s
  else start (transferCode s.params src dest len inc tgt) s

/-- The lines of FILL after its check (rules R61, R88), with `n = LEN - 1`: the trigger is one 32-bit write and has no
bracket. -/
def fillCode (p : Params) (dest len : BitVec 16) (val inc : Byte) : List Micro :=
  let n := len - 1#16
  [.pollStatus, .write .ctrl (regw p p.selAutoinc inc), .write .ctrl (regw p p.selLenl (loByte n)),
   .write .ctrl (regw p p.selLenh (hiByte n)), .write .ctrl p.fillSelect] ++
    write32 .ctrl (trig p.fillBase dest) ++ [.write .data (seedWord val), .respond true 0#16]

/-- FILL (rule R88): `LEN < 2` responds `(0, 0)` with no event and no state change. -/
def execFill (dest len : BitVec 16) (val inc : Byte) (s : State) : Host.Outcome State Fault Refusal :=
  if shortFill len then start [.respond false 0#16] s else start (fillCode s.params dest len val inc) s

/-- WAIT (rule R89). -/
def execWait (s : State) : Host.Outcome State Fault Refusal := start [.pollStatus, .respond true 0#16] s

end Sys2Proof.Machine
end

