-- ==== Sys2Proof/Machine/Queue.lean ====
section
/-! DEFINITION. The command queue: PUSH_FAST, PUSH, FLUSH, SIZE, CLEAR (rules R100 to R104). -/

namespace Sys2Proof.Machine

open Sys2Proof

/-- The lines of `push_fast(...)` for the words `c` (rule R100): eight stores, then the cursor. -/
def pushFastCode (c : DmaCommand) : List Micro :=
  fieldIndices.map (fun k => .storeField k (c.word k)) ++ [.advanceCursor]

/-- PUSH_FAST (rule R100): append one command, no checks but the overflow fault. -/
def execPushFast (src : BitVec 32) (dest len : BitVec 16) (inc : Byte) (tgt : Target) (s : State) :
    Host.Outcome State Fault Refusal :=
  start (pushFastCode (build s.params src dest len inc tgt) ++ [.respond true 0#16]) s

/-- The five ways a PUSH can fail (rules R101, R120). -/
def pushFails (src : BitVec 32) (len : BitVec 16) (inc : Byte) (s : State) : Bool :=
  badIncrement inc || zeroLength len || freeSlots s == 0 || (crosses src len && decide (freeSlots s < 2))

/-- The lines of PUSH after its checks (rule R101): `push_fast` for each segment, tail first. -/
def pushCode (p : Params) (src : BitVec 32) (dest len : BitVec 16) (inc : Byte) (tgt : Target) : List Micro :=
  (segments src dest len).flatMap (fun g => pushFastCode (g.build p inc tgt)) ++ [.respond true 0#16]

/-- PUSH (rule R101): append one command, or the two halves of a crossing one tail first, or nothing. -/
def execPush (src : BitVec 32) (dest len : BitVec 16) (inc : Byte) (tgt : Target) (s : State) :
    Host.Outcome State Fault Refusal :=
  if pushFails src len inc s then start [.respond false 0#16] s
  else start (pushCode s.params src dest len inc tgt) s

/-- The lines of a FLUSH at `CURSOR = n` (rule R102): one bracket around the replay, oldest slot first, fields in order;
then the queue is emptied. -/
def flushCode (n : Nat) : List Micro :=
  .acquireFast :: ((List.range n).flatMap fun i => fieldIndices.map (.writeSlot i)) ++
    [.release, .emptyQueue, .respond true 0#16]

/-- FLUSH (rule R102). It reads no status and has no test for emptiness. -/
def execFlush (s : State) : Host.Outcome State Fault Refusal := start (flushCode s.cursor) s

/-- SIZE (rule R103): the response carries `CURSOR` as a 16-bit number. -/
def execSize (s : State) : Host.Outcome State Fault Refusal := start [.respond true (BitVec.ofNat 16 s.cursor)] s

/-- CLEAR (rule R104): the cursor goes to 0, the slots keep their bits. -/
def execClear (s : State) : Host.Outcome State Fault Refusal := start [.emptyQueue, .respond true 0#16] s

end Sys2Proof.Machine
end

