-- ==== Sys2Proof/Machine/Dispatch.lean ====
section
/-! DEFINITION. One arm per instruction (the opcode map of rule R54). -/

namespace Sys2Proof.Machine

open Sys2Proof

/-- The meaning of each instruction. -/
def exec (i : Instr) (s : State) : Host.Outcome State Fault Refusal :=
  match i with
  | .request => Sys2Proof.Machine.execRequest s
  | .requestFast => Sys2Proof.Machine.execRequestFast s
  | .release => Sys2Proof.Machine.execRelease s
  | .isFree => Sys2Proof.Machine.execIsFree s
  | .transferFast src dest len inc tgt => Sys2Proof.Machine.execTransferFast src dest len inc tgt s
  | .transfer src dest len inc tgt => Sys2Proof.Machine.execTransfer src dest len inc tgt s
  | .fill dest len val inc => Sys2Proof.Machine.execFill dest len val inc s
  | .wait => Sys2Proof.Machine.execWait s
  | .pushFast src dest len inc tgt => Sys2Proof.Machine.execPushFast src dest len inc tgt s
  | .push src dest len inc tgt => Sys2Proof.Machine.execPush src dest len inc tgt s
  | .flush => Sys2Proof.Machine.execFlush s
  | .size => Sys2Proof.Machine.execSize s
  | .clear => Sys2Proof.Machine.execClear s

end Sys2Proof.Machine
end

