-- ==== Sys2Proof/Machine/Step.lean ====
section
/-! DEFINITION. One step (rules R8, R20, R50): while an operation is executing, its next line; when the sequencer is idle,
the next descriptor the host presents, decoded, and the first line of its operation. -/

namespace Sys2Proof.Machine

open Sys2Proof

/-- Take the next descriptor from the host (rule R50); an illegal one faults before any event (rules R64, R125). An idle
sequencer with no descriptor stays as it is. -/
def State.accept (s : State) : Result :=
  match s.hostIn with
  | [] => .next s
  | d :: ds =>
    match decode d with
    | .ok i => exec i { s with hostIn := ds }
    | .rejected _ => .fault .illegalCommand

/-- One step of the machine. -/
def step (s : State) : Host.Outcome State Fault Refusal :=
  match s.todo with
  | [] => s.accept
  | _ :: _ => advance s

/-- `n` steps, stopping at the first fault or refusal: what claims about an operation of several events speak about. -/
def steps : Nat → State → Host.Outcome State Fault Refusal
  | 0, s => .next s
  | n + 1, s => Result.andThen (step s) (steps n)

/-- The state whose very next step runs the instruction with the bits `w`: an idle sequencer, and the descriptor first in
line at the host's side (in place of the one that was). -/
def State.withFetchWord (s : State) (nbits w : Nat) : State :=
  { s with todo := [], hostIn := descriptorOfBits nbits w :: s.hostIn.tail }

end Sys2Proof.Machine
end

