-- ==== Sys2Proof/Machine/Assembly.lean ====
section
/-! DEFINITION. The textual form of a command (rules R66, R67): a mnemonic in upper case, then the operands in the order of
the source's signature, separated by commas; numbers decimal or `0x` hexadecimal; targets by symbol. -/

namespace Sys2Proof.Machine

open Sys2Proof

/-- The mnemonic of an instruction (rule R54). -/
def mnemonic : Instr → String
  | .request => "REQUEST"
  | .requestFast => "REQUEST_FAST"
  | .release => "RELEASE"
  | .isFree => "IS_FREE"
  | .transferFast .. => "TRANSFER_FAST"
  | .transfer .. => "TRANSFER"
  | .fill .. => "FILL"
  | .wait => "WAIT"
  | .pushFast .. => "PUSH_FAST"
  | .push .. => "PUSH"
  | .flush => "FLUSH"
  | .size => "SIZE"
  | .clear => "CLEAR"

/-- A digit as a character, `A` to `F` for 10 to 15. -/
def digitChar (n : Nat) : Char := if n < 10 then Char.ofNat (48 + n) else Char.ofNat (55 + n)

/-- The value of a digit character in a base up to 16. -/
def digitValue (base : Nat) (c : Char) : Option Nat :=
  let n := c.toNat
  let v := if 48 ≤ n ∧ n ≤ 57 then n - 48 else if 65 ≤ n ∧ n ≤ 70 then n - 55
    else if 97 ≤ n ∧ n ≤ 102 then n - 87 else 99
  if v < base then some v else none

/-- The lowest `k` hexadecimal digits of `n`, the highest first. -/
def hexDigits : Nat → Nat → List Char
  | 0, _ => []
  | k + 1, n => hexDigits k (n / 16) ++ [digitChar (n % 16)]

/-- A number as `0x` and `k` hexadecimal digits. -/
def hexText (k n : Nat) : List Char := '0' :: 'x' :: hexDigits k n

/-- The symbol of a target. -/
def Target.symbol : Target → String
  | .vram => "VRAM"
  | .cram => "CRAM"
  | .vsram => "VSRAM"

/-- Operands joined by a comma and a space. -/
def joinOperands : List (List Char) → List Char
  | [] => []
  | [a] => a
  | a :: rest => a ++ ',' :: ' ' :: joinOperands rest

/-- The operands as text, in the order of rule R66. -/
def operandTexts : Instr → List (List Char)
  | .transferFast src dest len inc tgt | .transfer src dest len inc tgt
  | .pushFast src dest len inc tgt | .push src dest len inc tgt =>
    [hexText 8 src.toNat, hexText 4 dest.toNat, hexText 4 len.toNat, hexText 2 inc.toNat, (Target.symbol tgt).toList]
  | .fill dest len val inc => [hexText 4 dest.toNat, hexText 4 len.toNat, hexText 2 val.toNat, hexText 2 inc.toNat]
  | .request | .requestFast | .release | .isFree | .wait | .flush | .size | .clear => []

/-- The text of a command; numbers are written in hexadecimal. -/
def print (i : Instr) : List Char :=
  match operandTexts i with
  | [] => (mnemonic i).toList
  | ops => (mnemonic i).toList ++ ' ' :: joinOperands ops

/-! ## Reading -/

/-- Digits of a base, most significant first, after the value read so far. -/
def readDigits (base : Nat) : Nat → List Char → Option Nat
  | acc, [] => some acc
  | acc, c :: cs =>
    match digitValue base c with
    | some v => readDigits base (base * acc + v) cs
    | none => none

/-- A number, decimal or `0x` hexadecimal, with at least one digit. -/
def readNat : List Char → Option Nat
  | '0' :: 'x' :: c :: cs => readDigits 16 0 (c :: cs)
  | c :: cs => readDigits 10 0 (c :: cs)
  | [] => none

/-- A number that fits in `w` bits; a larger one is no operand. -/
def readField (w : Nat) (t : List Char) : Option (BitVec w) :=
  match readNat t with
  | some n => if n < 2 ^ w then some (BitVec.ofNat w n) else none
  | none => none

/-- A target symbol; `VRAM_CMD` is another spelling of `VRAM`. -/
def readTarget (t : List Char) : Option Target :=
  if t = "VRAM".toList ∨ t = "VRAM_CMD".toList then some .vram
  else if t = "CRAM".toList then some .cram
  else if t = "VSRAM".toList then some .vsram
  else none

/-- Cut a text at every `c`. -/
def cutAt (c : Char) : List Char → List (List Char)
  | [] => [[]]
  | x :: xs =>
    if x = c then [] :: cutAt c xs
    else match cutAt c xs with
      | t :: ts => (x :: t) :: ts
      | [] => [[x]]

/-- The text up to the first space, and the text after it. -/
def cutFirstSpace : List Char → List Char × List Char
  | [] => ([], [])
  | c :: cs => if c = ' ' then ([], cs) else ((c :: (cutFirstSpace cs).1), (cutFirstSpace cs).2)

/-- The five operands of a transfer. -/
def readTransfer (mk : BitVec 32 → BitVec 16 → BitVec 16 → Byte → Target → Instr) (ops : List (List Char)) :
    Option Instr :=
  match ops with
  | [a, b, c, d, e] =>
    match readField 32 a, readField 16 b, readField 16 c, readField 8 d, readTarget e with
    | some src, some dest, some len, some inc, some tgt => some (mk src dest len inc tgt)
    | _, _, _, _, _ => none
  | _ => none

/-- The four operands of a fill. -/
def readFill (ops : List (List Char)) : Option Instr :=
  match ops with
  | [a, b, c, d] =>
    match readField 16 a, readField 16 b, readField 8 c, readField 8 d with
    | some dest, some len, some val, some inc => some (.fill dest len val inc)
    | _, _, _, _ => none
  | _ => none

/-- The operands between the commas, without their spaces; none when the text is empty. DESIGN CHOICE: rule R66 does not
speak of spaces; every space of the operand text is dropped, those inside an operand too, so `1 0` reads as 10 and `VR AM`
as `VRAM` (log entry 22). -/
def operandsOf (t : List Char) : List (List Char) :=
  if t.filter (· != ' ') = [] then [] else cutAt ',' (t.filter (· != ' '))

/-- A command without operands. -/
def readNullary (i : Instr) (ops : List (List Char)) : Option Instr :=
  match ops with
  | [] => some i
  | _ :: _ => none

/-- Read a command (rule R66): the mnemonic, a space, the operands. A text that begins with a space is no command (log
entry 22). -/
def parse (t : List Char) : Option Instr :=
  let m := (cutFirstSpace t).1
  let ops := operandsOf (cutFirstSpace t).2
  if m = "REQUEST".toList then readNullary .request ops
  else if m = "REQUEST_FAST".toList then readNullary .requestFast ops
  else if m = "RELEASE".toList then readNullary .release ops
  else if m = "IS_FREE".toList then readNullary .isFree ops
  else if m = "TRANSFER_FAST".toList then readTransfer .transferFast ops
  else if m = "TRANSFER".toList then readTransfer .transfer ops
  else if m = "FILL".toList then readFill ops
  else if m = "WAIT".toList then readNullary .wait ops
  else if m = "PUSH_FAST".toList then readTransfer .pushFast ops
  else if m = "PUSH".toList then readTransfer .push ops
  else if m = "FLUSH".toList then readNullary .flush ops
  else if m = "SIZE".toList then readNullary .size ops
  else if m = "CLEAR".toList then readNullary .clear ops
  else none

end Sys2Proof.Machine
end

