-- ==== Sys2Proof/Safety.lean ====
section
/-! DEFINITION. What claims speak about: the invariant of the machine, the words of a trace by port, the windows of the main
address space and the erratum (rule R39), the commands that fault (rules R126, R127), and the hazards a host must avoid
(rules R145 to R161). Nothing here is used by a step. -/

namespace Sys2Proof.Machine

open Sys2Proof

/-! ## Reading a trace -/

/-- The words written to one port, in order. -/
def wordsTo (port : WritePort) : List Event → List Word
  | [] => []
  | .write q v :: es => if q = port then v :: wordsTo port es else wordsTo port es
  | .read _ _ :: es => wordsTo port es

/-- How many reads of one port a trace holds. -/
def readsOf (port : ReadPort) : List Event → Nat
  | [] => 0
  | .read q _ :: es => (if q = port then 1 else 0) + readsOf port es
  | .write _ _ :: es => readsOf port es

/-- The words of a bus-request history that alternates, starting with an acquire, and leaves `o` the owner (rule R75:
`(acquire release)* (acquire)?`). -/
def alternatingBusWords (p : Params) (n : Nat) (o : Owner) : List Word :=
  (List.replicate n [p.busreqAssert, p.busreqRelease]).flatten ++ (if o = .main then [p.busreqAssert] else [])

/-! ## The invariant -/

/-- Every slot a remaining line of FLUSH reads is a queued one when it is read (rule R14), and there is a free slot at every
remaining store and at every raising of the cursor (rules R13, R101), for the cursor `n`. -/
def slotsInBounds (qcap : Nat) : Nat → List Micro → Bool
  | _, [] => true
  | n, .writeSlot i _ :: rest => decide (i < n) && slotsInBounds qcap n rest
  | n, .storeField _ _ :: rest => decide (n < qcap) && slotsInBounds qcap n rest
  | n, .advanceCursor :: rest => decide (n < qcap) && slotsInBounds qcap (n + 1) rest
  | _, .emptyQueue :: rest => slotsInBounds qcap 0 rest
  | n, .write _ _ :: rest | n, .acquire :: rest | n, .acquireFast :: rest | n, .release :: rest
  | n, .pollStatus :: rest | n, .pollGrant :: rest | n, .reportFree :: rest | n, .respond _ _ :: rest =>
    slotsInBounds qcap n rest

/-- The remaining lines keep to the brackets (rules R75, R77): if the acquires among them succeed, every release and every
`GRANTED` poll comes while the main processor owns the bus; and no other line writes `BUSREQ`. -/
def bracketed : Owner → List Micro → Bool
  | _, [] => true
  | _, .acquire :: rest => bracketed .main rest
  | _, .acquireFast :: rest => bracketed .main rest
  | o, .release :: rest => (o == .main) && bracketed .coproc rest
  | o, .pollGrant :: rest => (o == .main) && bracketed o rest
  | o, .write port _ :: rest => !(port == .busreq) && bracketed o rest
  | o, .writeSlot _ _ :: rest | o, .pollStatus :: rest | o, .reportFree :: rest | o, .storeField _ _ :: rest
  | o, .advanceCursor :: rest | o, .emptyQueue :: rest | o, .respond _ _ :: rest => bracketed o rest

/-- The line is a response or turns into one. -/
def Micro.answers : Micro → Bool
  | .respond _ _ | .reportFree => true
  | .write _ _ | .writeSlot _ _ | .acquire | .acquireFast | .release | .pollStatus | .pollGrant | .storeField _ _
  | .advanceCursor | .emptyQueue => false

/-- The remaining lines of an operation end in its one response, which comes last (rule R113). -/
def endsInResponse : List Micro → Bool
  | [] => false
  | [m] => m.answers
  | m :: rest => !m.answers && endsInResponse rest

/-- The invariant: the parameters meet rule R5; `0 <= CURSOR <= QCAP` and `Q` has `QCAP` slots (rules R11, R13); the
bus-request register holds the word of the owner (rule R15); the co-processor is halted or silenced only while the main
processor owns the bus (rule R77); and the event position is that of an operation under way. -/
abbrev State.Inv (s : State) : Prop :=
  s.params.wf = true ∧ s.cursor ≤ s.params.qcap ∧ s.slots.length = s.params.qcap ∧
    s.bus.busreq = s.owner.busreqWord s.params ∧
    (s.bus.coproc = .running ∨ s.owner = .main) ∧
    (s.todo = [] ∨ endsInResponse s.todo = true) ∧
    slotsInBounds s.params.qcap s.cursor s.todo = true ∧ bracketed s.owner s.todo = true

/-! ## The windows and the erratum (rule R39) -/

/-- The number of the 128 KiB window of a byte address. -/
def windowOf (a : Nat) : Nat := a / 0x20000

/-- The source byte range `[s, s + 2*n)` of a physical transfer lies in one window (rule R39). DESIGN CHOICE, unsafe: for a
programmed length of 0 that range is empty and the transfer counts as inside one window, so as not corrupted, though the
spec does not say what the device reads for a length of 0 (N26, U6; log entry 28). DESIGN CHOICE, unsafe: for an odd `SRC` the
range here starts at `SRC` as it was given; the source does not consider odd addresses (log entry 33). -/
def Segment.inOneWindow (g : Segment) : Bool :=
  g.len == 0#16 || windowOf g.src.toNat == windowOf (g.src.toNat + 2 * g.len.toNat - 1)

/-- The erratum corrupts the transfer: what the corrupted data is, the spec does not say (U5). -/
def Segment.corrupted (g : Segment) : Bool := !g.inOneWindow

/-- A copy that the device has started reads a source range that straddles a window boundary, so the erratum corrupts it
(rules R39, R133 (f)): the range is the programmed length in words from the word address. The range of a length of 0 is
empty here (log entry 28). DESIGN CHOICE: the word address has no bit 0, so for an odd `SRC` this range starts at `SRC - 1`,
not at `SRC` as that of `Segment.inOneWindow` does (log entry 33). -/
def DmaOperation.straddles (o : DmaOperation) : Bool :=
  match o.movement with
  | .copy a => Segment.corrupted ⟨(a ++ 0#1).setWidth 32, 0#16, o.length⟩
  | .fill _ => false

/-! ## Commands that fault (rules R75, R76, R126, R127) -/

/-- The fault a command meets when it is accepted in the state `s`, before its first event. TRANSFER_FAST and TRANSFER
meet theirs later, at their first `request_fast()`. -/
def faultAtOnce (i : Instr) (s : State) : Option Fault :=
  match i with
  | .request | .requestFast | .flush => if s.owner = .main then some .busProtocol else none
  | .release => if s.owner = .coproc then some .busProtocol else none
  | .pushFast .. => if s.params.qcap ≤ s.cursor then some .queueOverflow else none
  | .transferFast .. | .transfer .. | .fill .. | .isFree | .wait | .push .. | .size | .clear => none

/-! ## Hazards (rules R145 to R161): what the host must avoid, as far as the command and the state show it -/

/-- A hazard of `70_reset_and_hazards.md`. -/
inductive Hazard where
  /-- R145: an acquire without the release before it, or a release without an acquire. -/
  | unpaired
  /-- R146: TRANSFER_FAST, TRANSFER or FLUSH inside a bracket. -/
  | insideBracket
  /-- R149, R150: FLUSH while a copy or fill may be in flight. Only one in flight before the FLUSH counts: that the queued
  commands of one FLUSH follow each other without a wait is no hazard here (DESIGN CHOICE, log entry 31). -/
  | flushInFlight
  /-- R151: an unchecked path with `LEN = 0`. -/
  | uncheckedLength
  /-- R151: an unchecked path with `INC < 2`. -/
  | uncheckedIncrement
  /-- R151: an unchecked path that crosses a window boundary. -/
  | uncheckedCrossing
  /-- R152: PUSH_FAST without a free slot. -/
  | noFreeSlot
  /-- R153: an odd `SRC`. -/
  | oddSource
  /-- R153: a `SRC` at or above 0x01000000. -/
  | highSource
  /-- R159: a split with an increment other than 2. -/
  | splitStep
  deriving DecidableEq, Repr

/-- The hazards of passing `SRC` (rule R153). -/
def sourceHazards (src : BitVec 32) : List Hazard :=
  (if src.getLsbD 0 then [.oddSource] else []) ++ (if 0x01000000 ≤ src.toNat then [.highSource] else [])

/-- The hazards of a path without checks (rule R151). -/
def uncheckedHazards (src : BitVec 32) (len : BitVec 16) (inc : Byte) : List Hazard :=
  (if zeroLength len then [.uncheckedLength] else []) ++ (if badIncrement inc then [.uncheckedIncrement] else []) ++
    (if crosses src len then [.uncheckedCrossing] else []) ++ sourceHazards src

/-- The hazards of a path that splits (rules R153, R159). -/
def splitHazards (src : BitVec 32) (len : BitVec 16) (inc : Byte) : List Hazard :=
  (if crosses src len && !(inc == 2#8) then [.splitStep] else []) ++ sourceHazards src

/-- The hazards of issuing a command in a state. DESIGN CHOICE: a FLUSH of two or more queued commands has no hazard for the
missing wait between them; rule R150 gives no reason why none is needed, and U9 allows any value there (log entry 31). -/
def hazards (i : Instr) (s : State) : List Hazard :=
  match i with
  | .request | .requestFast => if s.owner = .main then [.unpaired] else []
  | .release => if s.owner = .coproc then [.unpaired] else []
  | .transferFast src _ len inc _ =>
    (if s.owner = .main then [.insideBracket] else []) ++ uncheckedHazards src len inc
  | .transfer src _ len inc _ => (if s.owner = .main then [.insideBracket] else []) ++ splitHazards src len inc
  | .pushFast src _ len inc _ =>
    (if s.params.qcap ≤ s.cursor then [.noFreeSlot] else []) ++ uncheckedHazards src len inc
  | .push src _ len inc _ => splitHazards src len inc
  | .flush =>
    (if s.owner = .main then [.insideBracket] else []) ++ (if s.vdp.mayBeInFlight then [.flushInFlight] else [])
  | .fill .. | .isFree | .wait | .size | .clear => []

/-- A command a careful host may issue in this state: none of the hazards holds. It does not say that the data of two
commands queued back to back come out whole (log entry 31). -/
def safeCommand (i : Instr) (s : State) : Bool := hazards i s == []

/-- What the host may do about co-processor memory (rules R147, R148): touch it only once a REQUEST has been confirmed. -/
def mayTouchCoprocMemory (s : State) : Bool := s.bus.coproc == .halted

end Sys2Proof.Machine
end

