-- ==== Sys2Proof/Certificates/Slice0/Obligations.lean ====
section
/-! DEFINITION. The statements about the model. Each docstring names the rules it formalises. A statement holds for every
value of the parameters (`s.params`), since a state carries them; where a constraint of rule R5 is needed it is a premise.
`steps n t` is `n` further steps from `t`; `exec i s` makes the first step of the operation, and a step is one event or one
internal update (rule R8; which is which is entry 10). -/

open Sys2Proof Sys2Proof.Machine

/-! ## Encoding -/

/-- Rules R51, R52, R54, R58: the decoder gives back every instruction from its descriptor, every operand at every value. -/
def Obligations.DecodeOfEncodeIsTheInstruction : Prop :=
  ∀ i : Instr, decode (encode i) = .ok i

/-- Rules R50 to R54, R64: no bit of a legal descriptor is ignored; one instruction has one descriptor. -/
def Obligations.EncodeOfDecodeIsTheDescriptor : Prop :=
  ∀ (d : Descriptor) (i : Instr), decode d = .ok i → encode i = d

/-- Rules R64, R125: the decoder refuses exactly the illegal descriptors, each condition as rule R64 words it. -/
def Obligations.DecoderAcceptsExactlyTheLegalDescriptors : Prop :=
  ∀ d : Descriptor, (∃ i, decode d = .ok i) ↔ d.legal = true

/-- Rule R125: an idle sequencer given a descriptor faults with `IllegalCommand` exactly when the descriptor is illegal; the
faulting step has no next state, so no event and no state change comes before. -/
def Obligations.IllegalDescriptorFaults : Prop :=
  ∀ (s : State) (d : Descriptor) (ds : List Descriptor), s.todo = [] → s.hostIn = d :: ds →
    (step s = .fault .illegalCommand ↔ d.legal = false)

/-- Rules R51, R54 (vectors V2, V5, V7, V9): five descriptors written out from the spec, of all three families, decode to
what they stand for, and three illegal ones are refused. -/
def Obligations.WrittenOutDescriptorsDecode : Prop :=
  decode 0x010000000000000000000000#96 = .ok .requestFast ∧
  decode 0x110002000100200000_01FF00#96 = .ok (.transfer 0x0001FF00#32 0x2000#16 0x100#16 2#8 .vram) ∧
  decode 0x120001FF0002100000000000#96 = .ok (.fill 0x1000#16 2#16 0xFF#8 1#8) ∧
  decode 0x20020400001400_0000FF1234#96 = .ok (.pushFast 0xFF1234#32 0#16 0x14#16 4#8 .vsram) ∧
  decode 0x220000000000000000000000#96 = .ok .flush ∧
  decode 0x220000000000000000000001#96 = .rejected .unusedFieldNotZero ∧
  decode 0x10030200000AC00000001000#96 = .rejected .reservedTarget ∧
  decode 0x250000000000000000000000#96 = .rejected .reservedOp

/-- Rule R54 and `opcode_table.json`: the descriptor of an instruction fits the opcode row of its own mnemonic and no other. -/
def Obligations.EachInstructionFitsItsOpcodeRowAlone : Prop :=
  ∀ (i : Instr) (r : OpRow), r ∈ opcodeRows → (r.fits (encode i) = true ↔ r.mnemonic = mnemonic i)

/-- Rule R53: bit 16 of a response is `ok`, bits 15:0 are `value`. -/
def Obligations.ResponseIsOkAboveValue : Prop :=
  ∀ r : Response, r.bits.getLsbD 16 = r.ok ∧ r.bits.extractLsb' 0 16 = r.value

/-- Rule R66: reading the printed text of an instruction gives it back. What the printer writes is the model's choice
(entry 22). -/
def Obligations.ParseOfPrintIsTheInstruction : Prop :=
  ∀ i : Instr, parse (print i) = some i

/-! ## Device words -/

/-- Rules R55, R56: with `REGW_SEL_LSB` 8 or 9 a register-write word has top bits `10`, the select code at
`REGW_SEL_LSB`, the value in its low byte, and 0 in the one bit left. -/
def Obligations.RegisterWriteWordLayout : Prop :=
  ∀ (p : Params) (sel : BitVec 5) (v : Byte), p.selLsbOk = true →
    (regw p sel v).extractLsb' 14 2 = 0b10#2 ∧ (regw p sel v).extractLsb' p.regwSelLsb 5 = sel ∧
    loByte (regw p sel v) = v ∧ (regw p sel v).getLsbD (if p.regwSelLsb = 8 then 13 else 8) = false

/-- Rule R57: for a base that meets its constraint, `TRIG` carries `dest[13:0]` in bits 29:16, `dest[15:14]` in bits 1:0, and
the base elsewhere. -/
def Obligations.TriggerCommandLayout : Prop :=
  ∀ (base : BitVec 32) (dest : BitVec 16), baseOk base = true →
    (trig base dest).extractLsb' 16 14 = dest.extractLsb' 0 14 ∧
    (trig base dest).extractLsb' 0 2 = dest.extractLsb' 14 2 ∧
    (trig base dest).extractLsb' 30 2 = base.extractLsb' 30 2 ∧
    (trig base dest).extractLsb' 2 14 = base.extractLsb' 2 14

/-- Rules R32, R59, R153: `BUILD` depends on bits 24:1 of `SRC` only. -/
def Obligations.SourceBitsOutsideTheWordAddressAreDropped : Prop :=
  ∀ (p : Params) (src src' : BitVec 32) (dest len : BitVec 16) (inc : Byte) (tgt : Target),
    src.extractLsb' 1 24 = src'.extractLsb' 1 24 →
    build p src dest len inc tgt = build p src' dest len inc tgt

/-- Rules R21, R133 (a), (b), (c), (e), (f), U9: the eight words of a transfer, written to the control port in order with no
half-written trigger before them, leave the six registers holding `INC`, the length and the word address, the trigger
command complete, and one operation started with those: a copy from that address, unless the fill source is selected (entry
32). It may be in flight then; where another may have been in flight before it, both may be corrupted, and the other
operations stay as they were (entry 18). With an even `SRC` the copy is one the erratum corrupts exactly when the transfer is (rule R39; that a length of 0 is not
corrupted is entry 28). The premise on the base is that its top bits are not those of a register-write word. How
the device tells the words apart, and that a write of another value to the register of `FILL_SELECT` takes the fill
source back, is the model's reading (entry 9); that the copy starts whatever set-up the device has had is the model's choice
(entry 30). -/
def Obligations.TransferWordsProgramTheDevice : Prop :=
  ∀ (p : Params) (d : Vdp) (src : BitVec 32) (dest len : BitVec 16) (inc : Byte) (tgt : Target),
    p.wf = true → d.half = none → (baseDma p tgt).extractLsb' 30 2 ≠ 0b10#2 →
    let c := build p src dest len inc tgt
    let d' := c.words.foldl (fun d w => d.control p w) d
    d'.autoinc = inc ∧ d'.lenl = len.extractLsb' 0 8 ∧ d'.lenh = len.extractLsb' 8 8 ∧
    d'.srcl = src.extractLsb' 1 8 ∧ d'.srcm = src.extractLsb' 9 8 ∧
    d'.srch = (src.extractLsb' 17 8 &&& p.srchMask) ∧
    (selectOf p p.fillSelect = p.selSrch → d'.fillSource = (c.srch == p.fillSelect)) ∧
    d'.half = none ∧ d'.command = some (trig (baseDma p tgt) dest) ∧ d'.starts = d.starts + 1 ∧
    d'.mayBeInFlight = true ∧
    ∃ o : DmaOperation, d'.operations = d.overtaken ++ [o] ∧ o = ⟨trig (baseDma p tgt) dest, len, inc,
      if d'.fillSource then .fill none else .copy (d'.srch ++ d'.srcm ++ d'.srcl), d.mayBeInFlight⟩ ∧
    (d'.fillSource = false → src.getLsbD 0 = false → o.straddles = Segment.corrupted ⟨src, dest, len⟩)

/-- Rules R21 (the FILL column), R61, R88, R133 (a) to (e), U9: the six control words of a FILL, written in order with no
half-written trigger before them, and its seed word leave the autoincrement register holding `INC`, the length registers
`LEN - 1`, source-low and source-mid as they were, the fill source selected, the trigger command complete, and one fill
started, with the seed, that writes `LEN` bytes (entry 32). The fill may be in flight then; where another may have been in
flight before it, both may be corrupted, and the other operations stay as they were (entry 18). The premises are that the
base's top bits are not those of a register-write word and that the register of `FILL_SELECT` is none of the five others. How the device tells the words apart is the model's reading (entry
9); that the fill starts whatever set-up the device has had is the model's choice (entry 30). -/
def Obligations.FillWordsProgramTheDevice : Prop :=
  ∀ (p : Params) (d : Vdp) (dest len : BitVec 16) (val inc : Byte),
    p.wf = true → d.half = none → p.fillBase.extractLsb' 30 2 ≠ 0b10#2 → 2 ≤ len.toNat →
    (∀ sel ∈ [p.selAutoinc, p.selLenl, p.selLenh, p.selSrcl, p.selSrcm], selectOf p p.fillSelect ≠ sel) →
    let n := BitVec.ofNat 16 (len.toNat - 1)
    let t32 := trig p.fillBase dest
    let ctrl := [regw p p.selAutoinc inc, regw p p.selLenl (n.extractLsb' 0 8), regw p p.selLenh (n.extractLsb' 8 8),
      p.fillSelect, t32.extractLsb' 16 16, t32.extractLsb' 0 16]
    let d' := (ctrl.foldl (fun d w => d.control p w) d).data (seedWord val)
    d'.autoinc = inc ∧ d'.lenl.toNat = (len.toNat - 1) % 256 ∧ d'.lenh.toNat = (len.toNat - 1) / 256 ∧
    d'.srcl = d.srcl ∧ d'.srcm = d.srcm ∧
    d'.srch = (if selectOf p p.fillSelect = p.selSrch then p.fillSelect.extractLsb' 0 8 else d.srch) ∧
    d'.fillSource = true ∧ d'.half = none ∧ d'.command = some (trig p.fillBase dest) ∧ d'.starts = d.starts + 1 ∧
    d'.mayBeInFlight = true ∧ d'.seed = some (val ++ val) ∧
    ∃ o : DmaOperation, d'.operations = d.overtaken ++ [o] ∧
      o = ⟨trig p.fillBase dest, n, inc, .fill (some (val ++ val)), d.mayBeInFlight⟩ ∧ o.bytes = some len.toNat

/-- Rule R37: a trigger-low after a DMA-triggering trigger-high starts a copy or fill, and the same word written once more
starts a second one, with the same command and the registers as they were; the first of the two may be in flight then, so
both may be corrupted (rule R133 (c), U9, entry 18). The premise is that the word's top bits are
not those of a register-write word. That the repetition is told by the word alone is the model's reading (entry 9);
that a start needs no set-up of the device is the model's choice (entry 30). -/
def Obligations.RepeatedTriggerLowStartsASecondTransfer : Prop :=
  ∀ (s : State) (hi lo : Word), s.vdp.half = some hi → startsDma s.params (hi ++ lo) = true → isRegWrite lo = false →
    let s1 := s.memWrite .ctrl lo
    let s2 := s1.memWrite .ctrl lo
    s1.vdp = { s.vdp with
      half := none, command := some (hi ++ lo), armed := true, mayBeInFlight := true,
      operations := s.vdp.overtaken ++ [s.vdp.operation (hi ++ lo)] } ∧
    s2.vdp = { s1.vdp with operations := s.vdp.overtaken ++
      [(s.vdp.operation (hi ++ lo)).disturbed, (s.vdp.operation (hi ++ lo)).disturbed] } ∧
    s2.trace = s.trace ++ [.write .ctrl lo, .write .ctrl lo]

/-- Rules R133 (c), R149, R150, U9: the words of two transfers, each after a wait, start two operations neither of which
another may corrupt, and leave the operations before them as they were; without the second wait, as in a FLUSH of two
queued commands, both may be corrupted. `busy` and `busy'` are the words read before the clear ones. The premises on the
bases are that their top bits are not those of a register-write word. What rests on the model's reading is in entries 9, 18,
27 and 30. -/
def Obligations.TransfersWithoutAWaitMayCorruptEachOther : Prop :=
  ∀ (p : Params) (d : Vdp) (src src' : BitVec 32) (dest len dest' len' : BitVec 16) (inc inc' : Byte) (tgt tgt' : Target)
    (busy busy' : List Word) (w w' : Word),
    p.wf = true → d.half = none → (baseDma p tgt).extractLsb' 30 2 ≠ 0b10#2 →
    (baseDma p tgt').extractLsb' 30 2 ≠ 0b10#2 → dmaBusy p w = false → dmaBusy p w' = false →
    let waited (ws : List Word) (d : Vdp) := ws.foldl (fun d w => d.statusRead p w) d
    let issued (c : DmaCommand) (d : Vdp) := c.words.foldl (fun d w => d.control p w) d
    let c := build p src dest len inc tgt
    let c' := build p src' dest' len' inc' tgt'
    (∃ o o', (issued c' (waited (busy' ++ [w']) (issued c (waited (busy ++ [w]) d)))).operations =
        d.operations ++ [o, o'] ∧ o.mayBeCorrupted = false ∧ o'.mayBeCorrupted = false) ∧
    (∃ o o', (issued c' (issued c (waited (busy ++ [w]) d))).operations = d.operations ++ [o, o'] ∧
      o.mayBeCorrupted = true ∧ o'.mayBeCorrupted = true)

/-! ## The windows -/

/-- Rules R80, R83: `REMAIN` is half the bytes left to the next 128 KiB boundary, rounded down, between 0 and 0x10000. -/
def Obligations.RemainCountsWordsToTheBoundary : Prop :=
  ∀ src : BitVec 32, remain src = (0x20000 - src.toNat % 0x20000) / 2 ∧ remain src ≤ 0x10000 ∧
    (src.getLsbD 0 = false → 1 ≤ remain src)

/-- Rule R82: for an even `src` and `len >= 1` a transfer crosses exactly when its first and its last byte lie in different
windows. -/
def Obligations.CrossingMeansLeavingTheWindow : Prop :=
  ∀ (src : BitVec 32) (len : BitVec 16), src.getLsbD 0 = false → 1 ≤ len.toNat →
    (crosses src len = true ↔ src.toNat / 0x20000 ≠ (src.toNat + 2 * len.toNat - 1) / 0x20000)

/-- Rule R87 (c), (d): for an even `SRC` the head ends at the window boundary, the tail starts there (modulo 2^32), the two
lengths add up to `LEN`, and neither segment is corrupted by the erratum. -/
def Obligations.SplitKeepsEachSegmentInOneWindow : Prop :=
  ∀ (src : BitVec 32) (dest len : BitVec 16), src.getLsbD 0 = false → crosses src len = true →
    let boundary := (src.toNat / 0x20000 + 1) * 0x20000
    let t := tailSegment src dest len
    let h := headSegment src dest
    segments src dest len = [t, h] ∧
    h.src = src ∧ h.dest = dest ∧ src.toNat + 2 * h.len.toNat = boundary ∧
    t.src.toNat = boundary % 2 ^ 32 ∧ t.dest.toNat = (dest.toNat + 2 * h.len.toNat) % 2 ^ 16 ∧
    t.len.toNat + h.len.toNat = len.toNat ∧ 1 ≤ t.len.toNat ∧ 1 ≤ h.len.toNat ∧
    t.corrupted = false ∧ h.corrupted = false

/-- Rule R86, corner case (d): at the last byte of a window `REMAIN` is 0, every non-zero length is split, and the head has
length zero. -/
def Obligations.OddLastByteSplitsOffAZeroLengthHead : Prop :=
  ∀ (src : BitVec 32) (dest len : BitVec 16), src.toNat % 0x20000 = 0x1FFFF → len ≠ 0#16 →
    segments src dest len = [⟨src, dest, len⟩, ⟨src, dest, 0#16⟩]

/-! ## The arbiter -/

/-- Rule R72: REQUEST_FAST writes `BUSREQ_ASSERT`, takes the bus and responds `(1, 0)`; while the main processor owns
the bus it faults instead. Nothing else changes (the co-processor is taken as silenced, rule R77). The co-processor's
part is entry 15. -/
def Obligations.RequestFastAcquiresWithoutWaiting : Prop :=
  ∀ s : State, s.todo = [] →
    (s.owner = .coproc → ∃ t, exec .requestFast s = .next t ∧ steps 1 t = .next { s with
      owner := .main
      trace := s.trace ++ [.write .busreq s.params.busreqAssert]
      responses := s.responses ++ [⟨true, 0#16⟩]
      bus := { s.bus with busreq := s.params.busreqAssert, coproc := .silenced } }) ∧
    (s.owner = .main → exec .requestFast s = .fault .busProtocol)

/-- Rule R73: RELEASE writes `BUSREQ_RELEASE`, gives the bus back and responds `(1, 0)`; an unmatched one faults.
Nothing else changes (the co-processor runs again, rule R37 (d)). The co-processor's part is entry 15. -/
def Obligations.ReleaseGivesTheBusBack : Prop :=
  ∀ s : State, s.todo = [] →
    (s.owner = .main → ∃ t, exec .release s = .next t ∧ steps 1 t = .next { s with
      owner := .coproc
      trace := s.trace ++ [.write .busreq s.params.busreqRelease]
      responses := s.responses ++ [⟨true, 0#16⟩]
      bus := { s.bus with busreq := s.params.busreqRelease, coproc := .running } }) ∧
    (s.owner = .coproc → exec .release s = .fault .busProtocol)

/-- Rule R74: IS_FREE makes one read and responds 1 exactly when the word read is `GRANTED`, in either state of
`OWNER` and whatever the environment answers. The answer list and the draw counter are the model's (entry 4), and so
is it that the read leaves `bus` alone (entry 27). -/
def Obligations.IsFreeReportsTheWordRead : Prop :=
  ∀ s : State, s.todo = [] →
    ∃ t, exec .isFree s = .next t ∧ steps 1 t = .next { s with
      busstatIn := s.busstatIn.tail
      draws := if s.busstatIn = [] then s.draws + 1 else s.draws
      trace := s.trace ++ [.read .busstat s.busstatWord]
      responses := s.responses ++
        [⟨true, if s.busstatWord &&& s.params.busstatMask = s.params.busstatFree then 1#16 else 0#16⟩] }

/-- Rule R71: REQUEST asserts the request, ends a co-processor reset, and reads `BUSSTAT` until a word is `GRANTED`,
however many reads that takes; then it responds `(1, 0)`. While the main processor owns the bus it faults. The answer
list is the model's (entry 4), the co-processor's part is entry 15, that the reset sequence is over afterwards is entry
29, and that the reads leave `bus` alone is entry 27. -/
def Obligations.RequestAcquiresAndWaits : Prop :=
  ∀ s : State, s.todo = [] →
    (∀ (no : List Word) (b : Word) (rest : List Word), s.owner = .coproc → s.busstatIn = no ++ b :: rest →
      (∀ w ∈ no, granted s.params w = false) → granted s.params b = true →
      ∃ t, exec .request s = .next t ∧
        steps (no.length + 3) t = .next { s with
          owner := .main
          busstatIn := rest
          trace := s.trace ++ [.write .busreq s.params.busreqAssert, .write .copreset s.params.copresetRelease] ++
            (no ++ [b]).map (.read .busstat)
          responses := s.responses ++ [⟨true, 0#16⟩]
          bus := ⟨s.params.busreqAssert, s.params.copresetRelease, false, .halted⟩ }) ∧
    (s.owner = .main → exec .request s = .fault .busProtocol)

/-- Rules R71 (a), R128: while no word read is `GRANTED` REQUEST goes on reading; `OWNER` stays `MAIN` and no response
comes. The answer list is the model's (entry 4). -/
def Obligations.RequestHangsUntilGranted : Prop :=
  ∀ (s : State) (no rest : List Word), s.todo = [] → s.owner = .coproc → s.busstatIn = no ++ rest →
    (∀ w ∈ no, granted s.params w = false) →
    ∃ t u, exec .request s = .next t ∧ steps (no.length + 1) t = .next u ∧
      u.todo = [.pollGrant, .respond true 0#16] ∧ u.owner = .main ∧ u.responses = s.responses ∧
      u.trace = s.trace ++ [.write .busreq s.params.busreqAssert, .write .copreset s.params.copresetRelease] ++
        no.map (.read .busstat)

/-! ## The engine -/

/-- Rule R89: WAIT makes one read a step, whatever the environment answers; it comes to its response with the first word
whose in-flight bit is clear and to its read again with any other. The answer list and the draw counter are the
model's (entry 4); what the read leaves in the device's registers is free (entry 27). -/
def Obligations.WaitPollsOnceAStep : Prop :=
  ∀ s : State, s.todo = [] →
    exec .wait s = .next { s with
      statusIn := s.statusIn.tail
      draws := if s.statusIn = [] then s.draws + 1 else s.draws
      trace := s.trace ++ [.read .status s.statusWord]
      vdp := s.vdp.statusRead s.params s.statusWord
      todo := if s.statusWord.getLsbD s.params.statusDmaBit then [.pollStatus, .respond true 0#16]
        else [.respond true 0#16] }

/-- Rule R89: after any number of busy words and one that is not, WAIT has responded `(1, 0)`, and no copy or fill the CORE
started is in flight any more. What the reads leave in the device's registers is free (`Vdp.statusRead`, log entry 27). -/
def Obligations.WaitEndsWithTheFirstClearWord : Prop :=
  ∀ (s : State) (busy : List Word) (w : Word) (rest : List Word), s.todo = [] → s.statusIn = busy ++ w :: rest →
    (∀ b ∈ busy, dmaBusy s.params b = true) → dmaBusy s.params w = false →
    let d := (busy ++ [w]).foldl (fun d x => d.statusRead s.params x) s.vdp
    d.mayBeInFlight = false ∧
    ∃ t, exec .wait s = .next t ∧
      steps (busy.length + 1) t = .next { s with
        statusIn := rest
        trace := s.trace ++ (busy ++ [w]).map (.read .status)
        responses := s.responses ++ [⟨true, 0#16⟩]
        vdp := d }

/-- Rule R128: while every word read shows the in-flight bit set, WAIT goes on reading and gives no response. The
answer list is the model's (entry 4). -/
def Obligations.WaitHangsWhileBusy : Prop :=
  ∀ (s : State) (b : Word) (busy rest : List Word), s.todo = [] → s.statusIn = b :: busy ++ rest →
    (∀ w ∈ b :: busy, dmaBusy s.params w = true) →
    ∃ t u, exec .wait s = .next t ∧ steps busy.length t = .next u ∧
      u.todo = [.pollStatus, .respond true 0#16] ∧ u.responses = s.responses ∧ u.owner = s.owner ∧
      u.trace = s.trace ++ (b :: busy).map (.read .status)

/-- Rules R85, R12, R59: TRANSFER_FAST waits, writes the eight words of `BUILD` in order, the last inside the bracket,
and responds `(1, 0)`; the bus ends with the co-processor, and nothing else of the CORE has changed. The answer list
is the model's (entry 4); what the reads leave in the device's registers is free (entry 27). -/
def Obligations.TransferFastIssuesTheEightWords : Prop :=
  ∀ (s : State) (src : BitVec 32) (dest len : BitVec 16) (inc : Byte) (tgt : Target)
    (busy : List Word) (w : Word) (rest : List Word),
    s.todo = [] → s.owner = .coproc → s.statusIn = busy ++ w :: rest →
    (∀ b ∈ busy, dmaBusy s.params b = true) → dmaBusy s.params w = false →
    let c := build s.params src dest len inc tgt
    ∃ t, exec (.transferFast src dest len inc tgt) s = .next t ∧
      steps (busy.length + 11) t = .next { s with
        statusIn := rest
        trace := s.trace ++ (busy ++ [w]).map (.read .status) ++
          [.write .ctrl c.autoinc, .write .ctrl c.lenl, .write .ctrl c.lenh, .write .ctrl c.srcl, .write .ctrl c.srcm,
           .write .ctrl c.srch, .write .ctrl c.trigh, .write .busreq s.params.busreqAssert, .write .ctrl c.trigl,
           .write .busreq s.params.busreqRelease]
        responses := s.responses ++ [⟨true, 0#16⟩]
        vdp := c.words.foldl (fun d v => d.control s.params v)
          ((busy ++ [w]).foldl (fun d x => d.statusRead s.params x) s.vdp)
        bus := { s.bus with busreq := s.params.busreqRelease, coproc := .running } }

/-- Rules R36, R77, R85: when TRANSFER_FAST comes to its trigger-low write, the main processor owns the bus and the
co-processor is silenced. The co-processor's part is entry 15. -/
def Obligations.TriggerLowIsWrittenInsideTheBracket : Prop :=
  ∀ (s : State) (src : BitVec 32) (dest len : BitVec 16) (inc : Byte) (tgt : Target)
    (busy : List Word) (w : Word) (rest : List Word),
    s.todo = [] → s.owner = .coproc → s.statusIn = busy ++ w :: rest →
    (∀ b ∈ busy, dmaBusy s.params b = true) → dmaBusy s.params w = false →
    let c := build s.params src dest len inc tgt
    ∃ t u, exec (.transferFast src dest len inc tgt) s = .next t ∧
      steps (busy.length + 8) t = .next u ∧
      u.todo = [.write .ctrl c.trigl, .release, .respond true 0#16] ∧ u.owner = .main ∧ u.bus.coproc = .silenced

/-- Rules R76, R126: TRANSFER_FAST issued while the main processor owns the bus makes its status reads and its first
seven `CTRL` writes, and faults at its `request_fast()`. The answer list is the model's (entry 4). -/
def Obligations.TransferFastInsideABracketFaultsAfterSevenWrites : Prop :=
  ∀ (s : State) (src : BitVec 32) (dest len : BitVec 16) (inc : Byte) (tgt : Target)
    (busy : List Word) (w : Word) (rest : List Word),
    s.todo = [] → s.owner = .main → s.statusIn = busy ++ w :: rest →
    (∀ b ∈ busy, dmaBusy s.params b = true) → dmaBusy s.params w = false →
    let c := build s.params src dest len inc tgt
    ∃ t u, exec (.transferFast src dest len inc tgt) s = .next t ∧
      steps (busy.length + 7) t = .next u ∧
      u.trace = s.trace ++ (busy ++ [w]).map (.read .status) ++
        [.write .ctrl c.autoinc, .write .ctrl c.lenl, .write .ctrl c.lenh, .write .ctrl c.srcl, .write .ctrl c.srcm,
         .write .ctrl c.srch, .write .ctrl c.trigh] ∧
      u.responses = s.responses ∧ step u = .fault .busProtocol

/-- Rules R76, R126, C9: a TRANSFER that passes its checks while the main processor owns the bus faults in its first
segment (the tail of a crossing one), at the `request_fast()`, after that segment's status reads and its first seven
`CTRL` writes. The answer list is the model's (entry 4). -/
def Obligations.TransferInsideABracketFaultsInItsFirstSegment : Prop :=
  ∀ (s : State) (src : BitVec 32) (dest len : BitVec 16) (inc : Byte) (tgt : Target)
    (busy : List Word) (w : Word) (rest : List Word),
    s.todo = [] → s.owner = .main → 2 ≤ inc.toNat → 1 ≤ len.toNat → s.statusIn = busy ++ w :: rest →
    (∀ b ∈ busy, dmaBusy s.params b = true) → dmaBusy s.params w = false →
    let r := remain src
    let c := if r < len.toNat
      then build s.params (src + BitVec.ofNat 32 (2 * r)) (dest + BitVec.ofNat 16 (2 * r))
        (BitVec.ofNat 16 (len.toNat - r)) inc tgt
      else build s.params src dest len inc tgt
    ∃ t u, exec (.transfer src dest len inc tgt) s = .next t ∧
      steps (busy.length + 7) t = .next u ∧
      u.trace = s.trace ++ (busy ++ [w]).map (.read .status) ++
        [.write .ctrl c.autoinc, .write .ctrl c.lenl, .write .ctrl c.lenh, .write .ctrl c.srcl, .write .ctrl c.srcm,
         .write .ctrl c.srch, .write .ctrl c.trigh] ∧
      u.responses = s.responses ∧ step u = .fault .busProtocol

/-- Rules R86, R120, R122, R130: TRANSFER with `INC < 2` or `LEN = 0` responds `(0, 0)` and does nothing else, in either state
of `OWNER`. -/
def Obligations.TransferFailureHasNoEffect : Prop :=
  ∀ (s : State) (src : BitVec 32) (dest len : BitVec 16) (inc : Byte) (tgt : Target), s.todo = [] →
    inc.toNat < 2 ∨ len = 0#16 →
    exec (.transfer src dest len inc tgt) s = .next { s with responses := s.responses ++ [⟨false, 0#16⟩] }

/-- Rule R87 (a): a TRANSFER that passes its checks and does not cross is TRANSFER_FAST with the same operands, in every
state. -/
def Obligations.TransferWithoutCrossingIsTransferFast : Prop :=
  ∀ (s : State) (src : BitVec 32) (dest len : BitVec 16) (inc : Byte) (tgt : Target),
    2 ≤ inc.toNat → 1 ≤ len.toNat → len.toNat ≤ remain src →
    exec (.transfer src dest len inc tgt) s = exec (.transferFast src dest len inc tgt) s

/-- Rules R86, R87 (b): a crossing TRANSFER runs `transfer_fast` for the tail, then for the head, each with its own
wait, and responds `(1, 0)`. The answer list is the model's (entry 4); what the reads leave in the device's registers
is free (entry 27). -/
def Obligations.CrossingTransferIssuesTailThenHead : Prop :=
  ∀ (s : State) (src : BitVec 32) (dest len : BitVec 16) (inc : Byte) (tgt : Target)
    (busy busy' : List Word) (w w' : Word) (rest : List Word),
    s.todo = [] → s.owner = .coproc → 2 ≤ inc.toNat → remain src < len.toNat →
    s.statusIn = busy ++ w :: (busy' ++ w' :: rest) →
    (∀ b ∈ busy ++ busy', dmaBusy s.params b = true) → dmaBusy s.params w = false → dmaBusy s.params w' = false →
    let r := remain src
    let a := build s.params (src + BitVec.ofNat 32 (2 * r)) (dest + BitVec.ofNat 16 (2 * r))
      (BitVec.ofNat 16 (len.toNat - r)) inc tgt
    let b := build s.params src dest (BitVec.ofNat 16 r) inc tgt
    ∃ t, exec (.transfer src dest len inc tgt) s = .next t ∧
      steps (busy.length + busy'.length + 22) t = .next { s with
        statusIn := rest
        trace := s.trace ++ (busy ++ [w]).map (.read .status) ++
          [.write .ctrl a.autoinc, .write .ctrl a.lenl, .write .ctrl a.lenh, .write .ctrl a.srcl, .write .ctrl a.srcm,
           .write .ctrl a.srch, .write .ctrl a.trigh, .write .busreq s.params.busreqAssert, .write .ctrl a.trigl,
           .write .busreq s.params.busreqRelease] ++ (busy' ++ [w']).map (.read .status) ++
          [.write .ctrl b.autoinc, .write .ctrl b.lenl, .write .ctrl b.lenh, .write .ctrl b.srcl, .write .ctrl b.srcm,
           .write .ctrl b.srch, .write .ctrl b.trigh, .write .busreq s.params.busreqAssert, .write .ctrl b.trigl,
           .write .busreq s.params.busreqRelease]
        responses := s.responses ++ [⟨true, 0#16⟩]
        vdp := b.words.foldl (fun d v => d.control s.params v)
          ((busy' ++ [w']).foldl (fun d x => d.statusRead s.params x)
            (a.words.foldl (fun d v => d.control s.params v)
              ((busy ++ [w]).foldl (fun d x => d.statusRead s.params x) s.vdp)))
        bus := { s.bus with busreq := s.params.busreqRelease, coproc := .running } }

/-- Rules R88, R120, R122: FILL with `LEN < 2` responds `(0, 0)` and does nothing else. -/
def Obligations.ShortFillHasNoEffect : Prop :=
  ∀ (s : State) (dest len : BitVec 16) (val inc : Byte), s.todo = [] → len.toNat < 2 →
    exec (.fill dest len val inc) s = .next { s with responses := s.responses ++ [⟨false, 0#16⟩] }

/-- Rules R88, R61: FILL waits, programs `INC`, `LEN - 1`, the fill-source-select word and the trigger, writes the
seed word to the data port, and responds `(1, 0)`, in either state of `OWNER`; it makes no `BUSREQ` event. The answer
list is the model's (entry 4); what the reads leave in the device's registers is free (entry 27). -/
def Obligations.FillProgramsOneLessAndSeeds : Prop :=
  ∀ (s : State) (dest len : BitVec 16) (val inc : Byte) (busy : List Word) (w : Word) (rest : List Word),
    s.todo = [] → 2 ≤ len.toNat → s.statusIn = busy ++ w :: rest →
    (∀ b ∈ busy, dmaBusy s.params b = true) → dmaBusy s.params w = false →
    let n := BitVec.ofNat 16 (len.toNat - 1)
    let t32 := trig s.params.fillBase dest
    let ctrl := [regw s.params s.params.selAutoinc inc, regw s.params s.params.selLenl (n.extractLsb' 0 8),
      regw s.params s.params.selLenh (n.extractLsb' 8 8), s.params.fillSelect, t32.extractLsb' 16 16,
      t32.extractLsb' 0 16]
    ∃ t, exec (.fill dest len val inc) s = .next t ∧
      steps (busy.length + 8) t = .next { s with
        statusIn := rest
        trace := s.trace ++ (busy ++ [w]).map (.read .status) ++ ctrl.map (.write .ctrl) ++ [.write .data (val ++ val)]
        responses := s.responses ++ [⟨true, 0#16⟩]
        vdp := (ctrl.foldl (fun d v => d.control s.params v)
          ((busy ++ [w]).foldl (fun d x => d.statusRead s.params x) s.vdp)).data (val ++ val) }

/-- Rules R22, R63: a wait looks at bit `STATUS_DMA_BIT` alone: two answers that agree there leave the same machine but for
the word in the trace. The answer list is the model's (entry 4). That the device too is left the same is the model's
choice (entry 27): what a read leaves in it is a free value that depends on how many reads came before and not on the
word. -/
def Obligations.OnlyTheInFlightBitIsLookedAt : Prop :=
  ∀ (s : State) (rest : List Micro) (w w' : Word) (ws : List Word), s.todo = .pollStatus :: rest →
    w.getLsbD s.params.statusDmaBit = w'.getLsbD s.params.statusDmaBit →
    ∃ t : State, step { s with statusIn := w :: ws } = .next { t with trace := s.trace ++ [.read .status w] } ∧
      step { s with statusIn := w' :: ws } = .next { t with trace := s.trace ++ [.read .status w'] }

/-! ## The queue -/

/-- Rules R100, R127: PUSH_FAST stores the words of `BUILD` in the slot at `CURSOR`, raises `CURSOR` by one and responds
`(1, 0)`, with no port access and whatever the operands; on a full queue it faults. -/
def Obligations.PushFastAppendsOrOverflows : Prop :=
  ∀ (s : State) (src : BitVec 32) (dest len : BitVec 16) (inc : Byte) (tgt : Target), s.todo = [] →
    (s.cursor < s.params.qcap → ∃ t, exec (.pushFast src dest len inc tgt) s = .next t ∧ steps 9 t = .next { s with
      slots := s.slots.set s.cursor (build s.params src dest len inc tgt)
      cursor := s.cursor + 1
      responses := s.responses ++ [⟨true, 0#16⟩] }) ∧
    (s.cursor = s.params.qcap → exec (.pushFast src dest len inc tgt) s = .fault .queueOverflow)

/-- Rules R101, R120, R122, R106 (c), (d): a PUSH that fails a check responds `(0, 0)` and changes nothing else. -/
def Obligations.PushFailsClosed : Prop :=
  ∀ (s : State) (src : BitVec 32) (dest len : BitVec 16) (inc : Byte) (tgt : Target), s.todo = [] →
    (inc.toNat < 2 ∨ len = 0#16 ∨ s.params.qcap - s.cursor = 0 ∨
      (remain src < len.toNat ∧ s.params.qcap - s.cursor = 1)) →
    exec (.push src dest len inc tgt) s = .next { s with responses := s.responses ++ [⟨false, 0#16⟩] }

/-- Rule R101: a PUSH that does not cross and has a free slot appends the one command and responds `(1, 0)`. -/
def Obligations.PushWithoutCrossingAppendsOne : Prop :=
  ∀ (s : State) (src : BitVec 32) (dest len : BitVec 16) (inc : Byte) (tgt : Target), s.todo = [] →
    2 ≤ inc.toNat → 1 ≤ len.toNat → len.toNat ≤ remain src → s.cursor < s.params.qcap →
    ∃ t, exec (.push src dest len inc tgt) s = .next t ∧ steps 9 t = .next { s with
      slots := s.slots.set s.cursor (build s.params src dest len inc tgt)
      cursor := s.cursor + 1
      responses := s.responses ++ [⟨true, 0#16⟩] }

/-- Rule R101: a crossing PUSH with two free slots puts the tail in the slot at `CURSOR` and the head in the next, and responds
`(1, 0)`. -/
def Obligations.CrossingPushAppendsTailThenHead : Prop :=
  ∀ (s : State) (src : BitVec 32) (dest len : BitVec 16) (inc : Byte) (tgt : Target), s.todo = [] →
    2 ≤ inc.toNat → remain src < len.toNat → s.cursor + 2 ≤ s.params.qcap →
    let r := remain src
    let a := build s.params (src + BitVec.ofNat 32 (2 * r)) (dest + BitVec.ofNat 16 (2 * r))
      (BitVec.ofNat 16 (len.toNat - r)) inc tgt
    let b := build s.params src dest (BitVec.ofNat 16 r) inc tgt
    ∃ t, exec (.push src dest len inc tgt) s = .next t ∧ steps 18 t = .next { s with
      slots := (s.slots.set s.cursor a).set (s.cursor + 1) b
      cursor := s.cursor + 2
      responses := s.responses ++ [⟨true, 0#16⟩] }

/-- Rules R102, R106 (a), (b): FLUSH writes, inside one bracket and without a status read, the words of the queued commands,
slot 0 first and each in field order, then empties the queue, keeps the slots' bits, and responds `(1, 0)`. While the main
processor owns the bus it faults. -/
def Obligations.FlushReplaysTheQueueInOrder : Prop :=
  ∀ s : State, s.Inv → s.todo = [] →
    (s.owner = .coproc →
      let ws := (s.slots.take s.cursor).flatMap DmaCommand.words
      ∃ t, exec .flush s = .next t ∧
        steps (8 * s.cursor + 3) t = .next { s with
          cursor := 0
          trace := s.trace ++ [.write .busreq s.params.busreqAssert] ++ ws.map (.write .ctrl) ++
            [.write .busreq s.params.busreqRelease]
          responses := s.responses ++ [⟨true, 0#16⟩]
          vdp := ws.foldl (fun d v => d.control s.params v) s.vdp
          bus := { s.bus with busreq := s.params.busreqRelease, coproc := .running } }) ∧
    (s.owner = .main → exec .flush s = .fault .busProtocol)

/-- Rule R103: the descriptor `23 00 00 00 0000 0000 00000000` is SIZE; it responds `(1, CURSOR)` and changes nothing else,
with no port access and in either state of `OWNER`; in a state that meets the invariant the 16-bit value is `CURSOR`. -/
def Obligations.SizeReportsTheCursor : Prop :=
  decode 0x230000000000000000000000#96 = .ok .size ∧
  ∀ s : State, s.todo = [] →
    exec .size s = .next { s with responses := s.responses ++ [⟨true, BitVec.ofNat 16 s.cursor⟩] } ∧
    (s.Inv → (BitVec.ofNat 16 s.cursor).toNat = s.cursor)

/-- Rule R104: the descriptor `24 00 00 00 0000 0000 00000000` is CLEAR; it sets `CURSOR` to 0 and responds `(1, 0)`; the slots
keep their bits, no port is accessed and `OWNER` is untouched. -/
def Obligations.ClearEmptiesTheQueue : Prop :=
  decode 0x240000000000000000000000#96 = .ok .clear ∧
  ∀ s : State, s.todo = [] →
    ∃ t, exec .clear s = .next t ∧
      steps 1 t = .next { s with cursor := 0, responses := s.responses ++ [⟨true, 0#16⟩] }

/-- Rule R107: from an idle state with an empty queue and the bus with the co-processor, PUSH then FLUSH writes to `CTRL` the
words TRANSFER writes for the same operands, in the same order, however long TRANSFER's waits are. The answer list is the
model's (entry 4): any number of busy words before each clear one. -/
def Obligations.PushThenFlushWritesWhatTransferWrites : Prop :=
  ∀ (s : State) (src : BitVec 32) (dest len : BitVec 16) (inc : Byte) (tgt : Target)
    (busy busy' : List Word) (w w' : Word) (rest : List Word),
    s.Inv → s.todo = [] → s.owner = .coproc → s.cursor = 0 → pushFails src len inc s = false →
    s.statusIn = busy ++ w :: (busy' ++ w' :: rest) →
    (∀ b ∈ busy ++ busy', dmaBusy s.params b = true) → dmaBusy s.params w = false → dmaBusy s.params w' = false →
    let k := (segments src dest len).length
    ∃ (a a' b c u v : State) (n : Nat),
      exec (.push src dest len inc tgt) s = .next a ∧ steps (9 * k) a = .next a' ∧ a'.todo = [] ∧
      exec .flush a' = .next b ∧ steps (8 * k + 3) b = .next u ∧ u.todo = [] ∧
      u.responses = s.responses ++ [⟨true, 0#16⟩, ⟨true, 0#16⟩] ∧
      exec (.transfer src dest len inc tgt) s = .next c ∧ steps n c = .next v ∧ v.todo = [] ∧
      v.responses = s.responses ++ [⟨true, 0#16⟩] ∧
      wordsTo .ctrl u.trace = wordsTo .ctrl v.trace ∧
      (wordsTo .ctrl v.trace).length = (wordsTo .ctrl s.trace).length + 8 * k

/-! ## The machine -/

/-- Rules R8, R20, R50: an idle sequencer given a legal descriptor takes it from the host and makes the first step of
its instruction; a busy one runs its next line; an idle one without a descriptor stays. That the coming descriptors
are a list is the model's choice (entry 12), and so is it that the descriptor is taken in the step of the
instruction's first line (entry 10). -/
def Obligations.StepRunsTheDecodedInstruction : Prop :=
  (∀ (s : State) (d : Descriptor) (ds : List Descriptor) (i : Instr), s.todo = [] → s.hostIn = d :: ds →
    decode d = .ok i → step s = exec i { s with hostIn := ds }) ∧
  (∀ (s : State) (m : Micro) (rest : List Micro), s.todo = m :: rest → step s = perform m rest s) ∧
  (∀ s : State, s.todo = [] → s.hostIn = [] → step s = .next s)

/-- U3, rules R78, R108, R136: a command is not accepted while another is executing. The refusal is entry 13. -/
def Obligations.NoCommandIsAcceptedWhileBusy : Prop :=
  ∀ (i : Instr) (s : State), s.todo ≠ [] → exec i s = .refused .commandWhileBusy

/-- Rules R75, R76, R126, R127, R130, R142: the commands that fault when they are accepted, and the only ones, with the fault
of each; every other command an idle sequencer is given is accepted. -/
def Obligations.CommandsFaultExactlyWhereTheSpecSays : Prop :=
  ∀ (i : Instr) (s : State), s.todo = [] →
    (∀ f, exec i s = .fault f ↔ faultAtOnce i s = some f) ∧
    (faultAtOnce i s = none → ∃ t, exec i s = .next t)

/-- Rules R111, R126, R101: in the middle of an operation only an acquire can fault, with `BusProtocol`, while the main
processor owns the bus; a store never finds the queue full there. -/
def Obligations.OnlyAnAcquireFaultsMidOperation : Prop :=
  ∀ (s : State) (m : Micro) (rest : List Micro) (f : Fault), s.Inv → s.todo = m :: rest →
    (step s = .fault f ↔ (m = .acquire ∨ m = .acquireFast) ∧ s.owner = .main ∧ f = .busProtocol)

/-- Rules R11, R13, R15, R113: every step keeps the invariant. -/
def Obligations.StepKeepsTheInvariant : Prop :=
  ∀ s s' : State, s.Inv → step s = .next s' → s'.Inv

/-- Rules R25, R141: the reset state meets the invariant, for all parameters that meet rule R5 and for the defaults.
The default parameters are entries 2 and 3, the reset value of the bus-request register is entry 8. -/
def Obligations.ResetMeetsTheInvariant : Prop :=
  (∀ p : Params, p.wf = true → (State.resetWith p).Inv) ∧ State.reset.Inv

/-- Rules R141, R142: after reset the queue is empty, the co-processor owns the bus, nothing is executing and no port has been
accessed; every command is accepted but RELEASE, which faults. -/
def Obligations.ResetStateIsIdleAndEmpty : Prop :=
  ∀ p : Params, p.wf = true →
    (State.resetWith p).cursor = 0 ∧ (State.resetWith p).owner = .coproc ∧ (State.resetWith p).todo = [] ∧
    (State.resetWith p).trace = [] ∧ queueState p.qcap (State.resetWith p).cursor = .empty ∧
    (∀ i : Instr, i ≠ .release → ∃ t, exec i (State.resetWith p) = .next t) ∧
    exec .release (State.resetWith p) = .fault .busProtocol

/-- Rules R8, R36, R42: a step is one event or one internal update of the sequencer. It appends one port access to the trace
and leaves the queue and the responses alone; or it makes no access, leaves `OWNER` and the devices alone and makes one
update: one field of the slot at `CURSOR`, or `CURSOR`, or a response; or it is the step of an idle sequencer without a
descriptor. That `OWNER` is set in the step of its `BUSREQ` write is decision D15; what else makes no step of its own is
entry 10. -/
def Obligations.AStepIsOneEventOrOneUpdate : Prop :=
  ∀ s s' : State, step s = .next s' →
    (s'.slots = s.slots ∧ s'.cursor = s.cursor ∧ s'.responses = s.responses ∧ ∃ e, s'.trace = s.trace ++ [e]) ∨
    (s'.trace = s.trace ∧ s'.owner = s.owner ∧ s'.vdp = s.vdp ∧ s'.bus = s.bus ∧
      ((s'.cursor = s.cursor ∧ s'.responses = s.responses ∧
          ∃ k v, s'.slots = s.slots.modify s.cursor (DmaCommand.setWord k v)) ∨
        (s'.slots = s.slots ∧ s'.responses = s.responses ∧ (s'.cursor = s.cursor + 1 ∨ s'.cursor = 0)) ∨
        (s'.slots = s.slots ∧ s'.cursor = s.cursor ∧ ∃ r, s'.responses = s.responses ++ [r]))) ∨
    (s' = s ∧ s.todo = [] ∧ s.hostIn = [])

/-- Rules R53, R113: a step gives at most one response, and gives one exactly when an operation ends: while an
operation goes on none is given, and when a busy sequencer becomes idle one is. -/
def Obligations.AResponseEndsTheOperation : Prop :=
  ∀ s s' : State, s.Inv → step s = .next s' →
    (s'.todo ≠ [] → s'.responses = s.responses) ∧
    (s'.todo = [] → (s.todo ≠ [] ∨ s.hostIn ≠ []) → ∃ r, s'.responses = s.responses ++ [r])

/-- Rules R15, R75: the words written to `BUSREQ` over the life of the CORE alternate, assert first, and the last one is that
of the owner; every step keeps this. -/
def Obligations.BusRequestsAlternate : Prop :=
  ∀ (s s' : State) (n : Nat), wordsTo .busreq s.trace = alternatingBusWords s.params n s.owner →
    s.Inv → step s = .next s' → ∃ m, wordsTo .busreq s'.trace = alternatingBusWords s'.params m s'.owner

/-- Rules R10, R15, R76: `OWNER` changes only with a `BUSREQ` write of the new owner's word, in the same step. -/
def Obligations.OwnerChangesOnlyWithABusRequest : Prop :=
  ∀ s s' : State, step s = .next s' → s'.owner ≠ s.owner →
    s'.trace = s.trace ++ [.write .busreq (s'.owner.busreqWord s.params)]

/-- Rules R10, R11, R14, R26, R115: the parameters never change; a queued slot keeps its words, whatever runs; and a slot
changes only in a PUSH_FAST or a PUSH: by the command's first store when it is accepted, and by its later stores. -/
def Obligations.OnlyPushesWriteSlots : Prop :=
  ∀ s s' : State, step s = .next s' →
    s'.params = s.params ∧ s'.slots.length = s.slots.length ∧ (∀ j < s.cursor, s'.slots[j]? = s.slots[j]?) ∧
    (s'.slots ≠ s.slots →
      (∃ k v rest, s.todo = .storeField k v :: rest) ∨
      (s.todo = [] ∧ ∃ (d : Descriptor) (ds : List Descriptor) (src : BitVec 32) (dest len : BitVec 16) (inc : Byte)
        (tgt : Target), s.hostIn = d :: ds ∧
          (decode d = .ok (.pushFast src dest len inc tgt) ∨ decode d = .ok (.push src dest len inc tgt))))

/-- Rule R105, the whole table: how the named state of the queue moves with each command run from its acceptance to its
response. From a queue that is not full PUSH_FAST leads to FULL when the cursor comes to `QCAP` and to ACCUMULATING
otherwise, and on a full one it faults; so does a PUSH that does not cross, and one that crosses moves the cursor by two;
no PUSH succeeds on a full queue, and a failing one leaves the queue as it was; FLUSH and CLEAR lead to EMPTY; every
other command leaves slots and cursor as they were, at every step of it. How many steps a command takes is entry 10. -/
def Obligations.QueueStateTransitions : Prop :=
  ∀ s : State, s.Inv → s.todo = [] →
    let q := queueState s.params.qcap
    (∀ src dest len inc tgt,
      (q s.cursor ≠ .full → ∃ t u, exec (.pushFast src dest len inc tgt) s = .next t ∧ steps 9 t = .next u ∧
        u.todo = [] ∧ q u.cursor = if s.cursor + 1 = s.params.qcap then .full else .accumulating) ∧
      (q s.cursor = .full → exec (.pushFast src dest len inc tgt) s = .fault .queueOverflow) ∧
      (pushFails src len inc s = false → crosses src len = false →
        q s.cursor ≠ .full ∧ ∃ t u, exec (.push src dest len inc tgt) s = .next t ∧ steps 9 t = .next u ∧
          u.todo = [] ∧ q u.cursor = if s.cursor + 1 = s.params.qcap then .full else .accumulating) ∧
      (pushFails src len inc s = false → crosses src len = true →
        q s.cursor ≠ .full ∧ s.cursor + 2 ≤ s.params.qcap ∧
        ∃ t u, exec (.push src dest len inc tgt) s = .next t ∧ steps 18 t = .next u ∧
          u.todo = [] ∧ q u.cursor = if s.cursor + 2 = s.params.qcap then .full else .accumulating) ∧
      (pushFails src len inc s = true → ∃ u, exec (.push src dest len inc tgt) s = .next u ∧
        u.todo = [] ∧ u.slots = s.slots ∧ u.cursor = s.cursor)) ∧
    (s.owner = .coproc → ∃ t u, exec .flush s = .next t ∧ steps (8 * s.cursor + 3) t = .next u ∧
      u.todo = [] ∧ q u.cursor = .empty) ∧
    (∃ t u, exec .clear s = .next t ∧ steps 1 t = .next u ∧ u.todo = [] ∧ q u.cursor = .empty) ∧
    (∀ (i : Instr) (n : Nat) (t u : State), s.hostIn = [] → i ≠ .flush → i ≠ .clear →
      (∀ src dest len inc tgt, i ≠ .pushFast src dest len inc tgt ∧ i ≠ .push src dest len inc tgt) →
      exec i s = .next t → steps n t = .next u → u.slots = s.slots ∧ u.cursor = s.cursor)

/-- Rules R145 to R152, R75, R127: a command a careful host may issue is not one that faults when it is accepted. -/
def Obligations.SafeCommandsDoNotFault : Prop :=
  ∀ (i : Instr) (s : State) (f : Fault), s.todo = [] → safeCommand i s = true → exec i s ≠ .fault f

/-- Rules R39, R87 (c), R151, R153: none of the physical transfers that a command a careful host may issue leads to is
corrupted by the erratum: neither the segments of a TRANSFER or a PUSH nor the one transfer of a fast path. With `LEN = 0`
TRANSFER and PUSH issue nothing; what `segments` has there counts as not corrupted by entry 28. -/
def Obligations.SafeTransfersStayInTheirWindows : Prop :=
  ∀ (s : State) (src : BitVec 32) (dest len : BitVec 16) (inc : Byte) (tgt : Target),
    ((safeCommand (.transfer src dest len inc tgt) s = true ∨ safeCommand (.push src dest len inc tgt) s = true) →
      ∀ g ∈ segments src dest len, g.corrupted = false) ∧
    ((safeCommand (.transferFast src dest len inc tgt) s = true ∨
      safeCommand (.pushFast src dest len inc tgt) s = true) →
      segments src dest len = [⟨src, dest, len⟩] ∧ Segment.corrupted ⟨src, dest, len⟩ = false)
end

