-- ==== Sys2Proof/Laws/Decode.lean ====
section
/-! SUPPORT. The fields of a packed descriptor, and the two selector functions. -/

namespace Sys2Proof

section
variable (op tgt inc val : BitVec 8) (len dest : BitVec 16) (src : BitVec 32)

@[simp] theorem pack_op : (pack op tgt inc val len dest src).op = op := by
  ext i hi; simp [pack, Descriptor.op, BitVec.getElem_extractLsb']; grind
@[simp] theorem pack_tgt : (pack op tgt inc val len dest src).tgt = tgt := by
  ext i hi; simp [pack, Descriptor.tgt, BitVec.getElem_extractLsb']; grind
@[simp] theorem pack_inc : (pack op tgt inc val len dest src).inc = inc := by
  ext i hi; simp [pack, Descriptor.inc, BitVec.getElem_extractLsb']; grind
@[simp] theorem pack_val : (pack op tgt inc val len dest src).val = val := by
  ext i hi; simp [pack, Descriptor.val, BitVec.getElem_extractLsb']; grind
@[simp] theorem pack_len : (pack op tgt inc val len dest src).len = len := by
  ext i hi; simp [pack, Descriptor.len, BitVec.getElem_extractLsb']; grind
@[simp] theorem pack_dest : (pack op tgt inc val len dest src).dest = dest := by
  ext i hi; simp [pack, Descriptor.dest, BitVec.getElem_extractLsb']; grind
@[simp] theorem pack_src : (pack op tgt inc val len dest src).src = src := by
  ext i hi; simp [pack, Descriptor.src, BitVec.getElem_extractLsb']; grind
end

/-- A descriptor is its seven fields. -/
theorem pack_fields (d : Descriptor) : pack d.op d.tgt d.inc d.val d.len d.dest d.src = d := by
  ext i hi
  simp only [pack, Descriptor.op, Descriptor.tgt, Descriptor.inc, Descriptor.val, Descriptor.len, Descriptor.dest,
    Descriptor.src]
  grind

/-- A format N descriptor is zero below `OP`. -/
theorem packN_low (op : BitVec 8) : (packN op).extractLsb' 0 88 = 0#88 := by
  ext i hi; simp [packN, pack, BitVec.getElem_extractLsb']; grind

/-- A descriptor that is zero below `OP` is a format N descriptor. -/
theorem packN_of_low {d : Descriptor} (h : d.extractLsb' 0 88 = 0#88) : packN d.op = d := by
  ext i hi
  have := congrArg (fun x => x.getLsbD i) h
  simp [BitVec.getLsbD_extractLsb'] at this
  simp [packN, pack, Descriptor.op]
  grind

/-- The selector of a target names it (rule R58). -/
@[simp] theorem targetOf_code (t : Target) : targetOf t.code = some t := by cases t <;> rfl

/-- Only the selector of a target names it. -/
theorem code_of_targetOf {sel : BitVec 8} {t : Target} (h : targetOf sel = some t) : t.code = sel := by
  unfold targetOf at h
  split at h
  · cases h; exact Eq.symm ‹_›
  · split at h
    · cases h; exact Eq.symm ‹_›
    · split at h
      · cases h; exact Eq.symm ‹_›
      · cases h

end Sys2Proof
end

