-- ==== Sys2Proof/Laws/State.lean ====
section
/-! SUPPORT. One lemma per field per update of the state, so that no proof unfolds an update. -/

namespace Sys2Proof.Machine

open Sys2Proof

variable (s : State)

@[simp] theorem State.emit_params (e : Event) : (s.emit e).params = s.params := rfl
@[simp] theorem State.emit_slots (e : Event) : (s.emit e).slots = s.slots := rfl
@[simp] theorem State.emit_cursor (e : Event) : (s.emit e).cursor = s.cursor := rfl
@[simp] theorem State.emit_owner (e : Event) : (s.emit e).owner = s.owner := rfl
@[simp] theorem State.emit_todo (e : Event) : (s.emit e).todo = s.todo := rfl
@[simp] theorem State.emit_hostIn (e : Event) : (s.emit e).hostIn = s.hostIn := rfl
@[simp] theorem State.emit_statusIn (e : Event) : (s.emit e).statusIn = s.statusIn := rfl
@[simp] theorem State.emit_busstatIn (e : Event) : (s.emit e).busstatIn = s.busstatIn := rfl
@[simp] theorem State.emit_draws (e : Event) : (s.emit e).draws = s.draws := rfl
@[simp] theorem State.emit_trace (e : Event) : (s.emit e).trace = s.trace ++ [e] := rfl
@[simp] theorem State.emit_responses (e : Event) : (s.emit e).responses = s.responses := rfl
@[simp] theorem State.emit_vdp (e : Event) : (s.emit e).vdp = s.vdp := rfl
@[simp] theorem State.emit_bus (e : Event) : (s.emit e).bus = s.bus := rfl

@[simp] theorem State.memWrite_params (port : WritePort) (v : Word) : (s.memWrite port v).params = s.params := by cases port <;> rfl
@[simp] theorem State.memWrite_slots (port : WritePort) (v : Word) : (s.memWrite port v).slots = s.slots := by cases port <;> rfl
@[simp] theorem State.memWrite_cursor (port : WritePort) (v : Word) : (s.memWrite port v).cursor = s.cursor := by cases port <;> rfl
@[simp] theorem State.memWrite_owner (port : WritePort) (v : Word) : (s.memWrite port v).owner = s.owner := by cases port <;> rfl
@[simp] theorem State.memWrite_todo (port : WritePort) (v : Word) : (s.memWrite port v).todo = s.todo := by cases port <;> rfl
@[simp] theorem State.memWrite_hostIn (port : WritePort) (v : Word) : (s.memWrite port v).hostIn = s.hostIn := by cases port <;> rfl
@[simp] theorem State.memWrite_statusIn (port : WritePort) (v : Word) : (s.memWrite port v).statusIn = s.statusIn := by cases port <;> rfl
@[simp] theorem State.memWrite_busstatIn (port : WritePort) (v : Word) : (s.memWrite port v).busstatIn = s.busstatIn := by cases port <;> rfl
@[simp] theorem State.memWrite_draws (port : WritePort) (v : Word) : (s.memWrite port v).draws = s.draws := by cases port <;> rfl
@[simp] theorem State.memWrite_trace (port : WritePort) (v : Word) : (s.memWrite port v).trace = s.trace ++ [.write port v] := by cases port <;> rfl
@[simp] theorem State.memWrite_responses (port : WritePort) (v : Word) : (s.memWrite port v).responses = s.responses := by cases port <;> rfl
@[simp] theorem State.memWrite_vdp (port : WritePort) (v : Word) : (s.memWrite port v).vdp = (s.deviceWrite port v).vdp := by cases port <;> rfl
@[simp] theorem State.memWrite_bus (port : WritePort) (v : Word) : (s.memWrite port v).bus = (s.deviceWrite port v).bus := by cases port <;> rfl

@[simp] theorem State.readStatus_params : (s.readStatus).params = s.params := rfl
@[simp] theorem State.readStatus_slots : (s.readStatus).slots = s.slots := rfl
@[simp] theorem State.readStatus_cursor : (s.readStatus).cursor = s.cursor := rfl
@[simp] theorem State.readStatus_owner : (s.readStatus).owner = s.owner := rfl
@[simp] theorem State.readStatus_todo : (s.readStatus).todo = s.todo := rfl
@[simp] theorem State.readStatus_hostIn : (s.readStatus).hostIn = s.hostIn := rfl
@[simp] theorem State.readStatus_statusIn : (s.readStatus).statusIn = s.statusIn.tail := rfl
@[simp] theorem State.readStatus_busstatIn : (s.readStatus).busstatIn = s.busstatIn := rfl
@[simp] theorem State.readStatus_draws : (s.readStatus).draws = if s.statusIn = [] then s.draws + 1 else s.draws := rfl
@[simp] theorem State.readStatus_trace : (s.readStatus).trace = s.trace ++ [.read .status s.statusWord] := rfl
@[simp] theorem State.readStatus_responses : (s.readStatus).responses = s.responses := rfl
@[simp] theorem State.readStatus_vdp : (s.readStatus).vdp = s.vdp.statusRead s.params s.statusWord := rfl
@[simp] theorem State.readStatus_bus : (s.readStatus).bus = s.bus := rfl

@[simp] theorem State.readBusstat_params : (s.readBusstat).params = s.params := rfl
@[simp] theorem State.readBusstat_slots : (s.readBusstat).slots = s.slots := rfl
@[simp] theorem State.readBusstat_cursor : (s.readBusstat).cursor = s.cursor := rfl
@[simp] theorem State.readBusstat_owner : (s.readBusstat).owner = s.owner := rfl
@[simp] theorem State.readBusstat_todo : (s.readBusstat).todo = s.todo := rfl
@[simp] theorem State.readBusstat_hostIn : (s.readBusstat).hostIn = s.hostIn := rfl
@[simp] theorem State.readBusstat_statusIn : (s.readBusstat).statusIn = s.statusIn := rfl
@[simp] theorem State.readBusstat_busstatIn : (s.readBusstat).busstatIn = s.busstatIn.tail := rfl
@[simp] theorem State.readBusstat_draws : (s.readBusstat).draws = if s.busstatIn = [] then s.draws + 1 else s.draws := rfl
@[simp] theorem State.readBusstat_trace : (s.readBusstat).trace = s.trace ++ [.read .busstat s.busstatWord] := rfl
@[simp] theorem State.readBusstat_responses : (s.readBusstat).responses = s.responses := rfl
@[simp] theorem State.readBusstat_vdp : (s.readBusstat).vdp = s.vdp := rfl
@[simp] theorem State.readBusstat_bus : (s.readBusstat).bus = s.bus := rfl

@[simp] theorem State.setOwner_params (o : Owner) : (s.setOwner o).params = s.params := rfl
@[simp] theorem State.setOwner_slots (o : Owner) : (s.setOwner o).slots = s.slots := rfl
@[simp] theorem State.setOwner_cursor (o : Owner) : (s.setOwner o).cursor = s.cursor := rfl
@[simp] theorem State.setOwner_owner (o : Owner) : (s.setOwner o).owner = o := rfl
@[simp] theorem State.setOwner_todo (o : Owner) : (s.setOwner o).todo = s.todo := rfl
@[simp] theorem State.setOwner_hostIn (o : Owner) : (s.setOwner o).hostIn = s.hostIn := rfl
@[simp] theorem State.setOwner_statusIn (o : Owner) : (s.setOwner o).statusIn = s.statusIn := rfl
@[simp] theorem State.setOwner_busstatIn (o : Owner) : (s.setOwner o).busstatIn = s.busstatIn := rfl
@[simp] theorem State.setOwner_draws (o : Owner) : (s.setOwner o).draws = s.draws := rfl
@[simp] theorem State.setOwner_trace (o : Owner) : (s.setOwner o).trace = s.trace ++ [.write .busreq (o.busreqWord s.params)] := rfl
@[simp] theorem State.setOwner_responses (o : Owner) : (s.setOwner o).responses = s.responses := rfl
@[simp] theorem State.setOwner_vdp (o : Owner) : (s.setOwner o).vdp = s.vdp := rfl
@[simp] theorem State.setOwner_bus (o : Owner) : (s.setOwner o).bus = s.bus.request s.params (o.busreqWord s.params) := rfl

@[simp] theorem State.setCoproc_params (h : CoprocHalt) : (s.setCoproc h).params = s.params := rfl
@[simp] theorem State.setCoproc_slots (h : CoprocHalt) : (s.setCoproc h).slots = s.slots := rfl
@[simp] theorem State.setCoproc_cursor (h : CoprocHalt) : (s.setCoproc h).cursor = s.cursor := rfl
@[simp] theorem State.setCoproc_owner (h : CoprocHalt) : (s.setCoproc h).owner = s.owner := rfl
@[simp] theorem State.setCoproc_todo (h : CoprocHalt) : (s.setCoproc h).todo = s.todo := rfl
@[simp] theorem State.setCoproc_hostIn (h : CoprocHalt) : (s.setCoproc h).hostIn = s.hostIn := rfl
@[simp] theorem State.setCoproc_statusIn (h : CoprocHalt) : (s.setCoproc h).statusIn = s.statusIn := rfl
@[simp] theorem State.setCoproc_busstatIn (h : CoprocHalt) : (s.setCoproc h).busstatIn = s.busstatIn := rfl
@[simp] theorem State.setCoproc_draws (h : CoprocHalt) : (s.setCoproc h).draws = s.draws := rfl
@[simp] theorem State.setCoproc_trace (h : CoprocHalt) : (s.setCoproc h).trace = s.trace := rfl
@[simp] theorem State.setCoproc_responses (h : CoprocHalt) : (s.setCoproc h).responses = s.responses := rfl
@[simp] theorem State.setCoproc_vdp (h : CoprocHalt) : (s.setCoproc h).vdp = s.vdp := rfl
@[simp] theorem State.setCoproc_bus (h : CoprocHalt) : (s.setCoproc h).bus = s.bus.setCoproc h := rfl

@[simp] theorem State.storeField_params (k : Fin 8) (v : Word) : (s.storeField k v).params = s.params := rfl
@[simp] theorem State.storeField_slots (k : Fin 8) (v : Word) : (s.storeField k v).slots = s.slots.modify s.cursor (DmaCommand.setWord k v) := rfl
@[simp] theorem State.storeField_cursor (k : Fin 8) (v : Word) : (s.storeField k v).cursor = s.cursor := rfl
@[simp] theorem State.storeField_owner (k : Fin 8) (v : Word) : (s.storeField k v).owner = s.owner := rfl
@[simp] theorem State.storeField_todo (k : Fin 8) (v : Word) : (s.storeField k v).todo = s.todo := rfl
@[simp] theorem State.storeField_hostIn (k : Fin 8) (v : Word) : (s.storeField k v).hostIn = s.hostIn := rfl
@[simp] theorem State.storeField_statusIn (k : Fin 8) (v : Word) : (s.storeField k v).statusIn = s.statusIn := rfl
@[simp] theorem State.storeField_busstatIn (k : Fin 8) (v : Word) : (s.storeField k v).busstatIn = s.busstatIn := rfl
@[simp] theorem State.storeField_draws (k : Fin 8) (v : Word) : (s.storeField k v).draws = s.draws := rfl
@[simp] theorem State.storeField_trace (k : Fin 8) (v : Word) : (s.storeField k v).trace = s.trace := rfl
@[simp] theorem State.storeField_responses (k : Fin 8) (v : Word) : (s.storeField k v).responses = s.responses := rfl
@[simp] theorem State.storeField_vdp (k : Fin 8) (v : Word) : (s.storeField k v).vdp = s.vdp := rfl
@[simp] theorem State.storeField_bus (k : Fin 8) (v : Word) : (s.storeField k v).bus = s.bus := rfl

@[simp] theorem State.setCursor_params (n : Nat) : (s.setCursor n).params = s.params := rfl
@[simp] theorem State.setCursor_slots (n : Nat) : (s.setCursor n).slots = s.slots := rfl
@[simp] theorem State.setCursor_cursor (n : Nat) : (s.setCursor n).cursor = n := rfl
@[simp] theorem State.setCursor_owner (n : Nat) : (s.setCursor n).owner = s.owner := rfl
@[simp] theorem State.setCursor_todo (n : Nat) : (s.setCursor n).todo = s.todo := rfl
@[simp] theorem State.setCursor_hostIn (n : Nat) : (s.setCursor n).hostIn = s.hostIn := rfl
@[simp] theorem State.setCursor_statusIn (n : Nat) : (s.setCursor n).statusIn = s.statusIn := rfl
@[simp] theorem State.setCursor_busstatIn (n : Nat) : (s.setCursor n).busstatIn = s.busstatIn := rfl
@[simp] theorem State.setCursor_draws (n : Nat) : (s.setCursor n).draws = s.draws := rfl
@[simp] theorem State.setCursor_trace (n : Nat) : (s.setCursor n).trace = s.trace := rfl
@[simp] theorem State.setCursor_responses (n : Nat) : (s.setCursor n).responses = s.responses := rfl
@[simp] theorem State.setCursor_vdp (n : Nat) : (s.setCursor n).vdp = s.vdp := rfl
@[simp] theorem State.setCursor_bus (n : Nat) : (s.setCursor n).bus = s.bus := rfl

@[simp] theorem State.goOn_params (rest : List Micro) : (s.goOn rest).params = s.params := rfl
@[simp] theorem State.goOn_slots (rest : List Micro) : (s.goOn rest).slots = s.slots := rfl
@[simp] theorem State.goOn_cursor (rest : List Micro) : (s.goOn rest).cursor = s.cursor := rfl
@[simp] theorem State.goOn_owner (rest : List Micro) : (s.goOn rest).owner = s.owner := rfl
@[simp] theorem State.goOn_todo (rest : List Micro) : (s.goOn rest).todo = rest := rfl
@[simp] theorem State.goOn_hostIn (rest : List Micro) : (s.goOn rest).hostIn = s.hostIn := rfl
@[simp] theorem State.goOn_statusIn (rest : List Micro) : (s.goOn rest).statusIn = s.statusIn := rfl
@[simp] theorem State.goOn_busstatIn (rest : List Micro) : (s.goOn rest).busstatIn = s.busstatIn := rfl
@[simp] theorem State.goOn_draws (rest : List Micro) : (s.goOn rest).draws = s.draws := rfl
@[simp] theorem State.goOn_trace (rest : List Micro) : (s.goOn rest).trace = s.trace := rfl
@[simp] theorem State.goOn_responses (rest : List Micro) : (s.goOn rest).responses = s.responses := rfl
@[simp] theorem State.goOn_vdp (rest : List Micro) : (s.goOn rest).vdp = s.vdp := rfl
@[simp] theorem State.goOn_bus (rest : List Micro) : (s.goOn rest).bus = s.bus := rfl

@[simp] theorem State.respond_params (ok : Bool) (v : Word) : (s.respond ok v).params = s.params := rfl
@[simp] theorem State.respond_slots (ok : Bool) (v : Word) : (s.respond ok v).slots = s.slots := rfl
@[simp] theorem State.respond_cursor (ok : Bool) (v : Word) : (s.respond ok v).cursor = s.cursor := rfl
@[simp] theorem State.respond_owner (ok : Bool) (v : Word) : (s.respond ok v).owner = s.owner := rfl
@[simp] theorem State.respond_todo (ok : Bool) (v : Word) : (s.respond ok v).todo = [] := rfl
@[simp] theorem State.respond_hostIn (ok : Bool) (v : Word) : (s.respond ok v).hostIn = s.hostIn := rfl
@[simp] theorem State.respond_statusIn (ok : Bool) (v : Word) : (s.respond ok v).statusIn = s.statusIn := rfl
@[simp] theorem State.respond_busstatIn (ok : Bool) (v : Word) : (s.respond ok v).busstatIn = s.busstatIn := rfl
@[simp] theorem State.respond_draws (ok : Bool) (v : Word) : (s.respond ok v).draws = s.draws := rfl
@[simp] theorem State.respond_trace (ok : Bool) (v : Word) : (s.respond ok v).trace = s.trace := rfl
@[simp] theorem State.respond_responses (ok : Bool) (v : Word) : (s.respond ok v).responses = s.responses ++ [⟨ok, v⟩] := rfl
@[simp] theorem State.respond_vdp (ok : Bool) (v : Word) : (s.respond ok v).vdp = s.vdp := rfl
@[simp] theorem State.respond_bus (ok : Bool) (v : Word) : (s.respond ok v).bus = s.bus := rfl

/-! ## What a write does at each port -/

@[simp] theorem State.deviceWrite_ctrl (v : Word) :
    s.deviceWrite .ctrl v = { s with vdp := s.vdp.control s.params v } := rfl
@[simp] theorem State.deviceWrite_data (v : Word) : s.deviceWrite .data v = { s with vdp := s.vdp.data v } := rfl
@[simp] theorem State.deviceWrite_busreq (v : Word) :
    s.deviceWrite .busreq v = { s with bus := s.bus.request s.params v } := rfl
@[simp] theorem State.deviceWrite_copreset (v : Word) :
    s.deviceWrite .copreset v = { s with bus := s.bus.endCopReset s.params v } := rfl

/-! ## The bus-control logic -/

@[simp] theorem BusControl.request_busreq (p : Params) (v : Word) (b : BusControl) : (b.request p v).busreq = v := rfl
@[simp] theorem BusControl.request_copreset (p : Params) (v : Word) (b : BusControl) :
    (b.request p v).copreset = b.copreset := rfl
@[simp] theorem BusControl.endCopReset_busreq (p : Params) (v : Word) (b : BusControl) :
    (b.endCopReset p v).busreq = b.busreq := rfl
@[simp] theorem BusControl.endCopReset_copreset (p : Params) (v : Word) (b : BusControl) :
    (b.endCopReset p v).copreset = v := rfl
@[simp] theorem BusControl.endCopReset_coproc (p : Params) (v : Word) (b : BusControl) :
    (b.endCopReset p v).coproc = b.coproc := rfl
@[simp] theorem BusControl.setCoproc_busreq (h : CoprocHalt) (b : BusControl) : (b.setCoproc h).busreq = b.busreq := rfl
@[simp] theorem BusControl.setCoproc_copreset (h : CoprocHalt) (b : BusControl) :
    (b.setCoproc h).copreset = b.copreset := rfl
@[simp] theorem BusControl.setCoproc_coproc (h : CoprocHalt) (b : BusControl) : (b.setCoproc h).coproc = h := rfl

/-! ## The words of a command (rule R12) -/

@[simp] theorem DmaCommand.word_setWord (k : Fin 8) (v : Word) (c : DmaCommand) : (c.setWord k v).word k = v := by
  revert k; intro k; match k with
  | 0 | 1 | 2 | 3 | 4 | 5 | 6 | 7 => rfl

theorem DmaCommand.word_setWord_of_ne {j k : Fin 8} (h : j ≠ k) (v : Word) (c : DmaCommand) :
    (c.setWord k v).word j = c.word j := by
  revert j k; intro j k; match j, k with
  | 0, 0 | 1, 1 | 2, 2 | 3, 3 | 4, 4 | 5, 5 | 6, 6 | 7, 7 => intro h; exact absurd rfl h
  | 0, 1 | 0, 2 | 0, 3 | 0, 4 | 0, 5 | 0, 6 | 0, 7 | 1, 0 | 1, 2 | 1, 3 | 1, 4 | 1, 5 | 1, 6 | 1, 7
  | 2, 0 | 2, 1 | 2, 3 | 2, 4 | 2, 5 | 2, 6 | 2, 7 | 3, 0 | 3, 1 | 3, 2 | 3, 4 | 3, 5 | 3, 6 | 3, 7
  | 4, 0 | 4, 1 | 4, 2 | 4, 3 | 4, 5 | 4, 6 | 4, 7 | 5, 0 | 5, 1 | 5, 2 | 5, 3 | 5, 4 | 5, 6 | 5, 7
  | 6, 0 | 6, 1 | 6, 2 | 6, 3 | 6, 4 | 6, 5 | 6, 7 | 7, 0 | 7, 1 | 7, 2 | 7, 3 | 7, 4 | 7, 5 | 7, 6 => intro _; rfl

/-- Setting the eight fields of any command gives the command they are the fields of. -/
theorem DmaCommand.setWord_all (c d : DmaCommand) :
    fieldIndices.foldl (fun d k => d.setWord k (c.word k)) d = c := by cases c; cases d; rfl

/-! ## The control port (rules R37, R133; log entry 9) -/

theorem loHalf_append (hi lo : Word) : loHalf (hi ++ lo) = lo := by
  apply BitVec.eq_of_getLsbD_eq
  intro i h
  have := BitVec.getLsbD_append (x := hi) (y := lo) (i := i)
  simp_all [loHalf, BitVec.getLsbD_extractLsb', -BitVec.getLsbD_eq_getElem]

/-- The second half of a command. -/
theorem Vdp.control_second {p : Params} {v hi : Word} {d : Vdp} (h : d.half = some hi) :
    d.control p v = d.complete p hi v := by simp [Vdp.control, h]

/-- A register-write word. -/
theorem Vdp.control_regWrite {p : Params} {v : Word} {d : Vdp} (h : d.half = none) (hr : isRegWrite v = true) :
    d.control p v = { d.latch p v with armed := false } := by simp [Vdp.control, h, hr]

/-- A repeated trigger-low. -/
theorem Vdp.control_repeat {p : Params} {v : Word} {d : Vdp} {t : BitVec 32} (h : d.half = none)
    (hr : isRegWrite v = false) (hp : d.repeats v = some t) : d.control p v = d.start t := by
  simp [Vdp.control, h, hr, hp]

/-- The first half of a command. -/
theorem Vdp.control_first {p : Params} {v : Word} {d : Vdp} (h : d.half = none) (hr : isRegWrite v = false)
    (hp : d.repeats v = none) : d.control p v = { d with half := some v, armed := false } := by
  simp [Vdp.control, h, hr, hp]

/-- No trigger-low has just started a copy or fill. -/
theorem Vdp.repeats_of_not_armed {v : Word} {d : Vdp} (h : d.armed = false) : d.repeats v = none := by
  simp [Vdp.repeats, h]

/-- The trigger-low of the command that has just started a copy or fill. -/
theorem Vdp.repeats_of_armed {t : BitVec 32} {d : Vdp} (h : d.armed = true) (ht : d.command = some t) :
    d.repeats (loHalf t) = some t := by simp [Vdp.repeats, h, ht, Option.filter]

/-- A whole command that starts a copy or fill. -/
theorem Vdp.complete_starts {p : Params} {hi lo : Word} {d : Vdp} (h : startsDma p (hi ++ lo) = true) :
    d.complete p hi lo = { d with
      half := none
      command := some (hi ++ lo)
      armed := true
      operations := d.overtaken ++ [d.operation (hi ++ lo)]
      mayBeInFlight := true } := by simp [Vdp.complete, Vdp.start, h, Vdp.overtaken, Vdp.operation]

/-- A whole command that starts none. -/
theorem Vdp.complete_quiet {p : Params} {hi lo : Word} {d : Vdp} (h : startsDma p (hi ++ lo) = false) :
    d.complete p hi lo = { d with half := none, command := some (hi ++ lo), armed := false } := by
  simp [Vdp.complete, h]

/-! ## The operations the device has started (rule R133) -/

@[simp] theorem updateLast_concat {α : Type} (f : α → α) (l : List α) (a : α) :
    updateLast f (l ++ [a]) = l ++ [f a] := by
  induction l with
  | nil => rfl
  | cons b l ih => cases l <;> simp_all [updateLast]

@[simp] theorem updateLast_length {α : Type} (f : α → α) (l : List α) : (updateLast f l).length = l.length := by
  rcases List.eq_nil_or_concat l with rfl | ⟨l, a, rfl⟩ <;> simp [updateLast]

/-- Nothing in flight: the operations so far stay as they are. -/
theorem Vdp.overtaken_of_quiet {d : Vdp} (h : d.mayBeInFlight = false) : d.overtaken = d.operations := by
  simp [Vdp.overtaken, h]

/-- One may be in flight: the last operation may be corrupted. -/
theorem Vdp.overtaken_of_inFlight {d : Vdp} {l : List DmaOperation} {o : DmaOperation} (h : d.mayBeInFlight = true)
    (ho : d.operations = l ++ [o]) : d.overtaken = l ++ [o.disturbed] := by
  simp [Vdp.overtaken, h, ho]

@[simp] theorem Vdp.starts_start (t : BitVec 32) (d : Vdp) : (d.start t).starts = d.starts + 1 := by
  unfold Vdp.start Vdp.starts Vdp.overtaken; split <;> simp
@[simp] theorem Vdp.starts_data (v : Word) (d : Vdp) : (d.data v).starts = d.starts := by
  simp [Vdp.data, Vdp.starts]

/-- Reads of `STATUS`, the last of which shows the in-flight bit clear, start nothing and leave nothing in flight and no
trigger half written where none was. -/
theorem Vdp.waited {p : Params} {w : Word} (hw : dmaBusy p w = false) (busy : List Word) (d : Vdp) :
    let d' := (busy ++ [w]).foldl (fun d w => d.statusRead p w) d
    d'.operations = d.operations ∧ d'.mayBeInFlight = false ∧ (d.half = none → d'.half = none) := by
  induction busy generalizing d with
  | nil => exact ⟨rfl, by simp [Vdp.statusRead, hw], fun h => by simp [Vdp.statusRead, h]⟩
  | cons b busy ih =>
    obtain ⟨h1, h2, h3⟩ := ih (d.statusRead p b)
    exact ⟨h1, h2, fun h => h3 (by simp [Vdp.statusRead, h])⟩

/-! ## The environment's answers (rule R8) -/

theorem State.statusWord_of_listed {w : Word} {ws : List Word} (h : s.statusIn = w :: ws) : s.statusWord = w := by
  simp [State.statusWord, h]
theorem State.busstatWord_of_listed {w : Word} {ws : List Word} (h : s.busstatIn = w :: ws) : s.busstatWord = w := by
  simp [State.busstatWord, h]

end Sys2Proof.Machine
end

