-- ==== Sys2Proof/Laws/Ops.lean ====
section
/-! SUPPORT. What each shared operation can do, said once: `perform`, `start`, `step`, `steps`. -/

namespace Sys2Proof.Machine

open Sys2Proof

/-! ## `perform`: one line of an operation -/

/-- Every way a line can give a next state. -/
theorem perform_next {m : Micro} {rest : List Micro} {s t : State} (h : perform m rest s = .next t) :
    (∃ port v, (m = .write port v ∨ ∃ i k, m = .writeSlot i k ∧ port = .ctrl ∧ v = s.slotWord i k) ∧
      t = (s.memWrite port v).goOn rest) ∨
    (m = .acquire ∧ s.owner = .coproc ∧ t = (s.setOwner .main).goOn rest) ∨
    (m = .acquireFast ∧ s.owner = .coproc ∧ t = ((s.setOwner .main).setCoproc .silenced).goOn rest) ∨
    (m = .release ∧ s.owner = .main ∧ t = (s.setOwner .coproc).goOn rest) ∨
    (m = .pollStatus ∧ dmaBusy s.params s.statusWord = true ∧ t = s.readStatus.goOn (.pollStatus :: rest)) ∨
    (m = .pollStatus ∧ dmaBusy s.params s.statusWord = false ∧ t = s.readStatus.goOn rest) ∨
    (m = .pollGrant ∧ granted s.params s.busstatWord = true ∧ t = (s.readBusstat.setCoproc .halted).goOn rest) ∨
    (m = .pollGrant ∧ granted s.params s.busstatWord = false ∧ t = s.readBusstat.goOn (.pollGrant :: rest)) ∨
    (m = .reportFree ∧
      t = s.readBusstat.goOn (.respond true (if granted s.params s.busstatWord then 1#16 else 0#16) :: rest)) ∨
    (∃ k v, m = .storeField k v ∧ s.cursor < s.params.qcap ∧ t = (s.storeField k v).goOn rest) ∨
    (m = .advanceCursor ∧ t = (s.setCursor (s.cursor + 1)).goOn rest) ∨
    (m = .emptyQueue ∧ t = (s.setCursor 0).goOn rest) ∨
    (∃ ok v, m = .respond ok v ∧ t = s.respond ok v) := by
  cases m with
  | write port v => left; exact ⟨port, v, .inl rfl, (Host.Outcome.next.inj h).symm⟩
  | writeSlot i k => left; exact ⟨.ctrl, _, .inr ⟨i, k, rfl, rfl, rfl⟩, (Host.Outcome.next.inj h).symm⟩
  | acquire => cases ho : s.owner <;> simp_all [perform, acquire]
  | acquireFast => cases ho : s.owner <;> simp_all [perform, acquire]
  | release => cases ho : s.owner <;> simp_all [perform, release]
  | pollStatus => cases hb : dmaBusy s.params s.statusWord <;> simp_all [perform]
  | pollGrant => cases hb : granted s.params s.busstatWord <;> simp_all [perform]
  | storeField k v => by_cases hc : s.params.qcap ≤ s.cursor <;> simp_all [perform, store]
  | _ => simp_all [perform]

/-- A line faults only at an acquire or a release that breaks the pairing (rule R126), or at a store on a full queue (rule
R127). -/
theorem perform_fault {m : Micro} {rest : List Micro} {s : State} {f : Fault} :
    perform m rest s = .fault f ↔
      (f = .busProtocol ∧
        (((m = .acquire ∨ m = .acquireFast) ∧ s.owner = .main) ∨ (m = .release ∧ s.owner = .coproc))) ∨
      (f = .queueOverflow ∧ (∃ k v, m = .storeField k v) ∧ s.params.qcap ≤ s.cursor) := by
  cases m with
  | storeField k v =>
    by_cases hc : s.params.qcap ≤ s.cursor <;> simp [perform, store, hc]
    exact eq_comm
  | _ => cases ho : s.owner <;> simp [perform, acquire, release, ho] <;> exact eq_comm

/-- No line refuses. -/
theorem perform_not_refused {m : Micro} {rest : List Micro} {s : State} {r : Refusal} :
    perform m rest s ≠ .refused r := by
  cases m with
  | storeField k v => by_cases hc : s.params.qcap ≤ s.cursor <;> simp [perform, store, hc]
  | _ => cases ho : s.owner <;> simp [perform, acquire, release, ho]

/-- No line writes the parameters or what the host presents. -/
theorem perform_keeps {m : Micro} {rest : List Micro} {s t : State} (h : perform m rest s = .next t) :
    t.params = s.params ∧ t.hostIn = s.hostIn := by
  rcases perform_next h with ⟨_, _, _, rfl⟩ | ⟨_, _, rfl⟩ | ⟨_, _, rfl⟩ | ⟨_, _, rfl⟩ | ⟨_, _, rfl⟩ | ⟨_, _, rfl⟩ |
    ⟨_, _, rfl⟩ | ⟨_, _, rfl⟩ | ⟨_, rfl⟩ | ⟨_, _, _, _, rfl⟩ | ⟨_, rfl⟩ | ⟨_, rfl⟩ | ⟨_, _, _, rfl⟩ <;> simp

/-! ## `start`, `advance`, `step`, `run` -/

theorem start_of_idle {s : State} (h : s.todo = []) (m : Micro) (code : List Micro) :
    start (m :: code) s = perform m code { s with todo := m :: code } := by
  simp [start, whenIdle, h, advance]

theorem start_of_busy {s : State} (h : s.todo ≠ []) (code : List Micro) :
    start code s = .refused .commandWhileBusy := by
  unfold start whenIdle
  cases hs : s.todo with
  | nil => exact absurd hs h
  | cons m rest => rfl

theorem step_of_busy {s : State} {m : Micro} {rest : List Micro} (h : s.todo = m :: rest) :
    step s = perform m rest s := by
  simp [step, advance, h]

theorem step_of_legal {s : State} {d : Descriptor} {ds : List Descriptor} {i : Instr} (h : s.todo = [])
    (hd : s.hostIn = d :: ds) (hi : decode d = .ok i) : step s = exec i { s with hostIn := ds } := by
  unfold step; rw [h]; unfold State.accept; rw [hd]; simp only [hi]; rw [← h]

theorem step_of_illegal {s : State} {d : Descriptor} {ds : List Descriptor} {why : Reject} (h : s.todo = [])
    (hd : s.hostIn = d :: ds) (hi : decode d = .rejected why) : step s = .fault .illegalCommand := by
  unfold step; rw [h]; unfold State.accept; rw [hd]; simp only [hi]

theorem step_of_nothing {s : State} (h : s.todo = []) (hd : s.hostIn = []) : step s = .next s := by
  simp [step, State.accept, h, hd]

/-! ## The host's `run` -/

theorem core_run_next (M : Host.Core) {s t : M.State} (h : M.step s = .next t) (n : Nat) :
    M.run (n + 1) s = M.run n t := by simp [Host.Core.run, h]
theorem core_run_fault (M : Host.Core) {s : M.State} {f : M.Fault} (h : M.step s = .fault f) (n : Nat) :
    M.run (n + 1) s = .fault f := by simp [Host.Core.run, h]
theorem core_run_refused (M : Host.Core) {s : M.State} {f : M.Refusal} (h : M.step s = .refused f) (n : Nat) :
    M.run (n + 1) s = .refused f := by simp [Host.Core.run, h]

/-! ## Several steps -/

@[simp] theorem steps_zero (s : State) : steps 0 s = .next s := rfl

theorem steps_succ {s t : State} (h : step s = .next t) (n : Nat) : steps (n + 1) s = steps n t := by
  simp [steps, h, Result.andThen]

theorem steps_of_fault {s : State} {f : Fault} (h : step s = .fault f) (n : Nat) : steps (n + 1) s = .fault f := by
  simp [steps, h, Result.andThen]

theorem steps_of_refused {s : State} {f : Refusal} (h : step s = .refused f) (n : Nat) :
    steps (n + 1) s = .refused f := by
  simp [steps, h, Result.andThen]

/-- `steps` is the host's `run` of this machine. -/
theorem steps_eq_run (n : Nat) (s : State) : steps n s = Host.Core.run core n s := by
  induction n generalizing s with
  | zero => rfl
  | succ n ih =>
    cases hs : step s with
    | next t => exact (steps_succ hs n).trans ((ih t).trans (core_run_next core hs n).symm)
    | fault f => exact (steps_of_fault hs n).trans (core_run_fault core hs n).symm
    | refused f => exact (steps_of_refused hs n).trans (core_run_refused core hs n).symm

/-- Running further from where a run has come. -/
theorem steps_add {s t : State} {n : Nat} (h : steps n s = .next t) (m : Nat) : steps (n + m) s = steps m t := by
  induction n generalizing s with
  | zero => cases h; simp
  | succ n ih =>
    cases hs : step s with
    | next s' =>
      rw [steps_succ hs] at h
      rw [show n + 1 + m = (n + m) + 1 by omega, steps_succ hs]
      exact ih h
    | fault f => rw [steps_of_fault hs] at h; cases h
    | refused f => rw [steps_of_refused hs] at h; cases h

/-- One more line of a busy sequencer. -/
theorem steps_line {s t : State} {m : Micro} {rest : List Micro} (h : s.todo = m :: rest)
    (hp : perform m rest s = .next t) (n : Nat) : steps (n + 1) s = steps n t :=
  steps_succ ((step_of_busy h).trans hp) n

end Sys2Proof.Machine
end

