-- ==== Sys2Proof/Laws/Run.lean ====
section
/-! SUPPORT. Running an operation: the polls, the lines of `transfer_fast` and `push_fast`, the replay of FLUSH, each said once. -/

namespace Sys2Proof.Machine

open Sys2Proof

/-- Starting an operation and running on is running from the state that holds its lines. -/
theorem start_and_run {s u : State} {m : Micro} {code : List Micro} {n : Nat} (h : s.todo = [])
    (hr : steps (n + 1) { s with todo := m :: code } = .next u) :
    ∃ t, start (m :: code) s = .next t ∧ steps n t = .next u := by
  rw [start_of_idle h]
  have hb : step { s with todo := m :: code } = perform m code { s with todo := m :: code } := step_of_busy rfl
  cases hp : perform m code { s with todo := m :: code } with
  | next t => exact ⟨t, rfl, (steps_succ (hb.trans hp) n).symm.trans hr⟩
  | fault f => exact nomatch (steps_of_fault (hb.trans hp) n).symm.trans hr
  | refused f => exact nomatch (steps_of_refused (hb.trans hp) n).symm.trans hr

/-- Reading busy status words (rule R89): the poll stays where it is. -/
theorem steps_poll_busy {rest : List Micro} {ws : List Word} (busy : List Word) (s : State)
    (ht : s.todo = .pollStatus :: rest) (hi : s.statusIn = busy ++ ws) (hb : ∀ b ∈ busy, dmaBusy s.params b = true) :
    steps busy.length s =
      .next { s with
        statusIn := ws
        trace := s.trace ++ busy.map (.read .status)
        vdp := busy.foldl (fun d w => d.statusRead s.params w) s.vdp } := by
  induction busy generalizing s with
  | nil => simp at hi; simp [← hi]
  | cons b bs ih =>
    have hw : s.statusWord = b := s.statusWord_of_listed hi
    have hbusy : dmaBusy s.params b = true := hb b (by simp)
    rw [List.length_cons, steps_line (t := s.readStatus.goOn (.pollStatus :: rest)) ht
      (by simp [perform, hw, hbusy])]
    refine Eq.trans (ih _ ?_ ?_ ?_) ?_
    · rfl
    · simp [hi]
    · exact fun c hc => hb c (by simp [hc])
    simp [State.readStatus, State.goOn, hi, hw, ht]

/-- A whole wait (rule R89): busy words, then one whose in-flight bit is clear. -/
theorem steps_wait {rest : List Micro} {busy ws : List Word} {w : Word} (s : State)
    (ht : s.todo = .pollStatus :: rest) (hi : s.statusIn = busy ++ w :: ws)
    (hb : ∀ b ∈ busy, dmaBusy s.params b = true) (hw : dmaBusy s.params w = false) :
    steps (busy.length + 1) s = .next { s with
      todo := rest
      statusIn := ws
      trace := s.trace ++ (busy ++ [w]).map (.read .status)
      vdp := (busy ++ [w]).foldl (fun d w => d.statusRead s.params w) s.vdp } := by
  rw [steps_add (steps_poll_busy busy s ht hi hb) 1]
  simp [steps, Result.andThen, step, ht, advance, perform, State.statusWord, State.readStatus, State.goOn, hw]

/-- Reading `BUSSTAT` words that are not `GRANTED` (rule R71). -/
theorem steps_poll_notGranted {rest : List Micro} {ws : List Word} (no : List Word) (s : State)
    (ht : s.todo = .pollGrant :: rest) (hi : s.busstatIn = no ++ ws) (hb : ∀ b ∈ no, granted s.params b = false) :
    steps no.length s =
      .next { s with busstatIn := ws, trace := s.trace ++ no.map (.read .busstat) } := by
  induction no generalizing s with
  | nil => simp at hi; simp [← hi]
  | cons b bs ih =>
    have hw : s.busstatWord = b := s.busstatWord_of_listed hi
    have hno : granted s.params b = false := hb b (by simp)
    rw [List.length_cons, steps_line (t := s.readBusstat.goOn (.pollGrant :: rest)) ht
      (by simp [perform, hw, hno])]
    refine Eq.trans (ih _ ?_ ?_ ?_) ?_
    · rfl
    · simp [hi]
    · exact fun c hc => hb c (by simp [hc])
    simp [State.readBusstat, State.goOn, hi, hw, ht]

/-- The whole loop of REQUEST (rule R71). -/
theorem steps_grant {rest : List Micro} {no ws : List Word} {w : Word} (s : State)
    (ht : s.todo = .pollGrant :: rest) (hi : s.busstatIn = no ++ w :: ws)
    (hb : ∀ b ∈ no, granted s.params b = false) (hw : granted s.params w = true) :
    steps (no.length + 1) s = .next { s with
      todo := rest
      busstatIn := ws
      trace := s.trace ++ (no ++ [w]).map (.read .busstat)
      bus := { s.bus with coproc := .halted } } := by
  rw [steps_add (steps_poll_notGranted no s ht hi hb) 1]
  simp [steps, Result.andThen, step, ht, advance, perform, State.busstatWord, State.readBusstat, hw,
    State.setCoproc, State.goOn, BusControl.setCoproc]

/-- The lines of `transfer_fast` (rule R85), from the wait to the release. -/
theorem steps_transferFast {rest : List Micro} {busy ws : List Word} {w : Word} (c : DmaCommand) (s : State)
    (ht : s.todo = transferFastCode c ++ rest) (ho : s.owner = .coproc) (hi : s.statusIn = busy ++ w :: ws)
    (hb : ∀ b ∈ busy, dmaBusy s.params b = true) (hw : dmaBusy s.params w = false) :
    steps (busy.length + 11) s = .next { s with
      todo := rest
      statusIn := ws
      trace := s.trace ++ (busy ++ [w]).map (.read .status) ++
        [.write .ctrl c.autoinc, .write .ctrl c.lenl, .write .ctrl c.lenh, .write .ctrl c.srcl, .write .ctrl c.srcm,
         .write .ctrl c.srch, .write .ctrl c.trigh, .write .busreq s.params.busreqAssert, .write .ctrl c.trigl,
         .write .busreq s.params.busreqRelease]
      vdp := c.words.foldl (fun d v => d.control s.params v)
        ((busy ++ [w]).foldl (fun d w => d.statusRead s.params w) s.vdp)
      bus := { s.bus with busreq := s.params.busreqRelease, coproc := .running } } := by
  rw [show busy.length + 11 = (busy.length + 1) + 10 by omega, steps_add (steps_wait s ht hi hb hw) 10]
  simp [steps, Result.andThen, step, advance, perform, acquire, release, State.goOn, State.memWrite, State.emit, State.setOwner,
    State.setCoproc, BusControl.request, BusControl.setCoproc, Owner.busreqWord, DmaCommand.words, DmaCommand.word,
    fieldIndices, ho]

/-- The lines of `push_fast` (rule R100) where a slot is free: the command stands in the slot at `CURSOR`, and `CURSOR` is one
higher. -/
theorem steps_pushFast {rest : List Micro} (c : DmaCommand) (s : State) (ht : s.todo = pushFastCode c ++ rest)
    (hc : s.cursor < s.params.qcap) :
    steps 9 s = .next { s with todo := rest, slots := s.slots.set s.cursor c, cursor := s.cursor + 1 } := by
  have hc' : ¬ s.params.qcap ≤ s.cursor := by omega
  have hm : (fun d : DmaCommand => fieldIndices.foldl (fun d k => d.setWord k (c.word k)) d) = fun _ => c :=
    funext fun d => DmaCommand.setWord_all c d
  simp only [fieldIndices, List.foldl] at hm
  have hs : s.slots.modify s.cursor (fun _ => c) = s.slots.set s.cursor c := List.set_eq_modify c s.cursor s.slots |>.symm
  simp [steps, Result.andThen, step, advance, ht, pushFastCode, fieldIndices, perform, store, hc', State.goOn,
    State.storeField, State.setCursor, List.modify_modify_eq, Function.comp_def, ← hs, ← hm]

/-- Lines of a replay (rule R102): each writes the slot field it names. -/
theorem steps_writeSlots {rest : List Micro} (l : List (Nat × Fin 8)) (s : State)
    (ht : s.todo = l.map (fun x => .writeSlot x.1 x.2) ++ .release :: rest) :
    steps l.length s = .next { s with
      todo := .release :: rest
      trace := s.trace ++ (l.map fun x => s.slotWord x.1 x.2).map (.write .ctrl)
      vdp := (l.map fun x => s.slotWord x.1 x.2).foldl (fun d v => d.control s.params v) s.vdp } := by
  induction l generalizing s with
  | nil => simp at ht; simp [← ht]
  | cons x xs ih =>
    obtain ⟨i, k⟩ := x
    rw [List.length_cons, steps_line (t := (s.memWrite .ctrl (s.slotWord i k)).goOn
      (xs.map (fun x => .writeSlot x.1 x.2) ++ .release :: rest)) ht rfl]
    refine Eq.trans (ih _ rfl) ?_
    simp [State.slotWord, State.memWrite, State.emit, State.goOn]

/-- The words a replay writes are those of the queued commands, slot 0 first (rule R102). -/
theorem slotWords_eq {s : State} {n : Nat} (h : n ≤ s.slots.length) :
    ((List.range n).flatMap fun i => fieldIndices.map fun k => (i, k)).map (fun x => s.slotWord x.1 x.2) =
      (s.slots.take n).flatMap DmaCommand.words := by
  induction n with
  | zero => simp
  | succ n ih =>
    have hn : n < s.slots.length := h
    rw [List.range_succ, List.take_add_one, List.flatMap_append, List.map_append, ih (by omega), List.flatMap_append]
    congr 1
    simp [List.getElem?_eq_getElem hn, DmaCommand.words, State.slotWord, Function.comp_def]

end Sys2Proof.Machine
end

