-- ==== Sys2Proof/Laws/Exec.lean ====
section
/-! SUPPORT. What accepting a command can do, said once for all thirteen: it runs the first line of the instruction's code,
and what the lines of each instruction look like. -/

namespace Sys2Proof.Machine

open Sys2Proof

/-- The lines of an instruction (rule R111). -/
def codeOf (i : Instr) (s : State) : List Micro :=
  match i with
  | .request => requestCode s.params
  | .requestFast => [.acquireFast, .respond true 0#16]
  | .release => [.release, .respond true 0#16]
  | .isFree => [.reportFree]
  | .transferFast src dest len inc tgt => transferFastCode (build s.params src dest len inc tgt) ++ [.respond true 0#16]
  | .transfer src dest len inc tgt =>
    if badIncrement inc || zeroLength len then [.respond false 0#16] else transferCode s.params src dest len inc tgt
  | .fill dest len val inc => if shortFill len then [.respond false 0#16] else fillCode s.params dest len val inc
  | .wait => [.pollStatus, .respond true 0#16]
  | .pushFast src dest len inc tgt => pushFastCode (build s.params src dest len inc tgt) ++ [.respond true 0#16]
  | .push src dest len inc tgt =>
    if pushFails src len inc s then [.respond false 0#16] else pushCode s.params src dest len inc tgt
  | .flush => flushCode s.cursor
  | .size => [.respond true (BitVec.ofNat 16 s.cursor)]
  | .clear => [.emptyQueue, .respond true 0#16]

/-- Every instruction, on every state: start its lines. -/
theorem exec_eq_start (i : Instr) (s : State) : exec i s = start (codeOf i s) s := by
  cases i with
  | transfer src dest len inc tgt => simp only [exec, execTransfer, codeOf]; split <;> rfl
  | fill dest len val inc => simp only [exec, execFill, codeOf]; split <;> rfl
  | push src dest len inc tgt => simp only [exec, execPush, codeOf]; split <;> rfl
  | _ => rfl

/-- A PUSH that passes its checks has room for every command it enqueues (rule R101: it never reaches the overflow). -/
theorem push_has_room {src : BitVec 32} {dest len : BitVec 16} {inc : Byte} {s : State}
    (h : pushFails src len inc s = false) : s.cursor + (segments src dest len).length ≤ s.params.qcap := by
  unfold pushFails freeSlots at h
  unfold segments
  cases hc : crosses src len <;> simp [hc] at h ⊢ <;> omega

/-! ## The shape of every instruction's lines -/

theorem endsInResponse_append {l r : List Micro} (hl : ∀ m ∈ l, m.answers = false) (hr : endsInResponse r = true) :
    endsInResponse (l ++ r) = true := by
  induction l with
  | nil => exact hr
  | cons m l ih =>
    have hm : m.answers = false := hl m (by simp)
    have hn : l ++ r ≠ [] := by cases l <;> cases r <;> simp_all [endsInResponse]
    obtain ⟨x, xs, hx⟩ := List.exists_cons_of_ne_nil hn
    have := ih (fun m hm => hl m (by simp [hm]))
    rw [List.cons_append, hx] at *
    simp [endsInResponse, hm, this]

theorem transferFastCode_not_answers (c : DmaCommand) : ∀ m ∈ transferFastCode c, m.answers = false := by
  have h : (transferFastCode c).all (fun m => !m.answers) = true := rfl
  intro m hm
  simpa using List.all_eq_true.mp h m hm

theorem pushFastCode_not_answers (c : DmaCommand) : ∀ m ∈ pushFastCode c, m.answers = false := by
  have h : (pushFastCode c).all (fun m => !m.answers) = true := rfl
  intro m hm
  simpa using List.all_eq_true.mp h m hm

/-- The lines of a replay (rule R102). -/
def replayLines (n : Nat) : List Micro := (List.range n).flatMap fun i => fieldIndices.map (.writeSlot i)

theorem flushCode_eq (n : Nat) :
    flushCode n = (.acquireFast :: replayLines n ++ [.release, .emptyQueue]) ++ [.respond true 0#16] := by
  simp [flushCode, replayLines]

/-- Every line of a replay writes a queued slot. -/
theorem mem_replayLines {n : Nat} {m : Micro} (h : m ∈ replayLines n) : ∃ i k, m = .writeSlot i k ∧ i < n := by
  obtain ⟨i, hi, hm⟩ := List.mem_flatMap.mp h
  obtain ⟨k, _, hk⟩ := List.mem_map.mp hm
  exact ⟨i, k, hk.symm, List.mem_range.mp hi⟩

/-- The lines of every instruction end in its one response (rule R113). -/
theorem codeOf_endsInResponse (i : Instr) (s : State) : endsInResponse (codeOf i s) = true := by
  cases i with
  | transferFast src dest len inc tgt => exact endsInResponse_append (transferFastCode_not_answers _) rfl
  | transfer src dest len inc tgt =>
    simp only [codeOf]; split
    · rfl
    · refine endsInResponse_append ?_ rfl
      intro m hm
      obtain ⟨g, _, hm⟩ := List.mem_flatMap.mp hm
      exact transferFastCode_not_answers _ m hm
  | fill dest len val inc =>
    simp only [codeOf]; split
    · rfl
    · rw [fillCode, write32]; rfl
  | pushFast src dest len inc tgt => exact endsInResponse_append (pushFastCode_not_answers _) rfl
  | push src dest len inc tgt =>
    simp only [codeOf]; split
    · rfl
    · refine endsInResponse_append ?_ rfl
      intro m hm
      obtain ⟨g, _, hm⟩ := List.mem_flatMap.mp hm
      exact pushFastCode_not_answers _ m hm
  | flush =>
    rw [codeOf, flushCode_eq]
    refine endsInResponse_append ?_ rfl
    intro m hm
    simp only [List.cons_append, List.mem_cons, List.mem_append, List.not_mem_nil, or_false] at hm
    rcases hm with rfl | hm | rfl | rfl
    · rfl
    · obtain ⟨j, k, rfl, _⟩ := mem_replayLines hm; rfl
    · rfl
    · rfl
  | request => rfl
  | requestFast => rfl
  | release => rfl
  | isFree => rfl
  | wait => rfl
  | size => rfl
  | clear => rfl

/-! ## Slots and brackets -/

theorem slotsInBounds_replay {q n : Nat} {l rest : List Micro} (h : ∀ m ∈ l, ∃ i k, m = .writeSlot i k ∧ i < n) :
    slotsInBounds q n (l ++ rest) = slotsInBounds q n rest := by
  induction l with
  | nil => rfl
  | cons m l ih =>
    obtain ⟨i, k, rfl, hi⟩ := h m (by simp)
    simp [slotsInBounds, hi, ih (fun m hm => h m (by simp [hm]))]

/-- The lines of `push_fast` for each of several commands need a free slot for each. -/
theorem slotsInBounds_pushes {q n : Nat} {l : List Segment} {rest : List Micro} (f : Segment → DmaCommand)
    (h : n + l.length ≤ q) :
    slotsInBounds q n (l.flatMap (fun g => pushFastCode (f g)) ++ rest) = slotsInBounds q (n + l.length) rest := by
  induction l generalizing n with
  | nil => rfl
  | cons g l ih =>
    simp at h
    have hn : n < q := by omega
    have := ih (n := n + 1) (by omega)
    rw [show n + (g :: l).length = n + 1 + l.length by simp; omega, ← this]
    simp [pushFastCode, fieldIndices, slotsInBounds, hn]

theorem bracketed_pushes {o : Owner} {l : List Segment} {rest : List Micro} (f : Segment → DmaCommand) :
    bracketed o (l.flatMap (fun g => pushFastCode (f g)) ++ rest) = bracketed o rest := by
  induction l with
  | nil => rfl
  | cons g l ih => rw [← ih]; simp [pushFastCode, fieldIndices, bracketed]

/-- The lines of `transfer_fast` are one bracket and leave the bus with the co-processor. -/
theorem bracketed_transferFast (o : Owner) (c : DmaCommand) (rest : List Micro) :
    bracketed o (transferFastCode c ++ rest) = bracketed .coproc rest := by
  simp [transferFastCode, bracketed]

theorem bracketed_replay {o : Owner} {l rest : List Micro} (h : ∀ m ∈ l, ∃ i k, m = .writeSlot i k) :
    bracketed o (l ++ rest) = bracketed o rest := by
  induction l with
  | nil => rfl
  | cons m l ih =>
    obtain ⟨i, k, rfl⟩ := h m (by simp)
    simpa [bracketed] using ih (fun m hm => h m (by simp [hm]))

/-- The lines of every instruction read queued slots and store to free ones only, unless it is a PUSH_FAST on a full queue, and
keep to the brackets, unless it is an unmatched RELEASE. -/
theorem codeOf_shape (i : Instr) (s : State) :
    (slotsInBounds s.params.qcap s.cursor (codeOf i s) = true ∨
        (∃ src dest len inc tgt, i = .pushFast src dest len inc tgt) ∧ s.params.qcap ≤ s.cursor) ∧
      (bracketed s.owner (codeOf i s) = true ∨ (i = .release ∧ s.owner = .coproc)) := by
  cases i with
  | transferFast src dest len inc tgt =>
    refine ⟨.inl (by simp [codeOf, transferFastCode, slotsInBounds]), .inl ?_⟩
    rw [codeOf, bracketed_transferFast]; rfl
  | transfer src dest len inc tgt =>
    simp only [codeOf]
    split
    · exact ⟨.inl rfl, .inl rfl⟩
    · unfold transferCode segments
      split
      · refine ⟨.inl (by simp [transferFastCode, slotsInBounds]), .inl ?_⟩
        simp only [List.flatMap_cons, List.flatMap_nil, List.append_nil, List.append_assoc, bracketed_transferFast]; rfl
      · refine ⟨.inl (by simp [transferFastCode, slotsInBounds]), .inl ?_⟩
        simp only [List.flatMap_cons, List.flatMap_nil, List.append_nil, bracketed_transferFast]; rfl
  | fill dest len val inc =>
    simp only [codeOf]; split
    · exact ⟨.inl rfl, .inl rfl⟩
    · simp [fillCode, write32, slotsInBounds, bracketed]
  | pushFast src dest len inc tgt =>
    refine ⟨?_, .inl (by simp [codeOf, pushFastCode, fieldIndices, bracketed])⟩
    by_cases hc : s.cursor < s.params.qcap
    · exact .inl (by simp [codeOf, pushFastCode, fieldIndices, slotsInBounds, hc])
    · exact .inr ⟨⟨src, dest, len, inc, tgt, rfl⟩, by omega⟩
  | push src dest len inc tgt =>
    simp only [codeOf]
    split
    · exact ⟨.inl rfl, .inl rfl⟩
    · rename_i hf
      have hroom := push_has_room (dest := dest) (Bool.eq_false_iff.mpr hf)
      exact ⟨.inl (slotsInBounds_pushes _ hroom), .inl (bracketed_pushes _)⟩
  | flush =>
    rw [codeOf, flushCode_eq, List.append_assoc, List.cons_append]
    constructor
    · left; rw [slotsInBounds, slotsInBounds_replay fun m hm => mem_replayLines hm]; rfl
    · left
      rw [bracketed, bracketed_replay]
      · rfl
      · intro m hm; obtain ⟨i, k, h, _⟩ := mem_replayLines hm; exact ⟨i, k, h⟩
  | release => cases ho : s.owner <;> simp [codeOf, slotsInBounds, bracketed]
  | request => simp [codeOf, requestCode, slotsInBounds, bracketed]
  | requestFast => simp [codeOf, slotsInBounds, bracketed]
  | isFree => simp [codeOf, slotsInBounds, bracketed]
  | wait => simp [codeOf, slotsInBounds, bracketed]
  | size => simp [codeOf, slotsInBounds, bracketed]
  | clear => simp [codeOf, slotsInBounds, bracketed]

/-! ## What a step can do -/

theorem endsInResponse_tail {m : Micro} {l : List Micro} (h : endsInResponse (m :: l) = true) :
    (l = [] ∧ m.answers = true) ∨ (m.answers = false ∧ endsInResponse l = true) := by
  cases l with
  | nil => exact .inl ⟨rfl, h⟩
  | cons a b => exact .inr (by simpa [endsInResponse] using h)

/-- Every instruction has a first line. -/
theorem codeOf_ne_nil (i : Instr) (s : State) : codeOf i s ≠ [] := by
  intro h
  have := codeOf_endsInResponse i s
  rw [h] at this
  cases this

/-- Accepting a command on an idle state runs its first line. -/
theorem exec_of_idle {s : State} (h : s.todo = []) (i : Instr) :
    ∃ m rest, codeOf i s = m :: rest ∧ exec i s = perform m rest { s with todo := m :: rest } := by
  obtain ⟨m, rest, hc⟩ := List.exists_cons_of_ne_nil (codeOf_ne_nil i s)
  exact ⟨m, rest, hc, by rw [exec_eq_start, hc, start_of_idle h]⟩

/-- Every way a step can give a next state: an idle sequencer without a descriptor stays; a busy one runs its next line; an
idle one with a legal descriptor runs the first line of the instruction. -/
theorem step_cases {s s' : State} (h : step s = .next s') :
    (s.todo = [] ∧ s.hostIn = [] ∧ s' = s) ∨
    (∃ m rest, s.todo = m :: rest ∧ perform m rest s = .next s') ∨
    (∃ d ds i m rest, s.todo = [] ∧ s.hostIn = d :: ds ∧ decode d = .ok i ∧
      codeOf i { s with hostIn := ds } = m :: rest ∧
      perform m rest { s with hostIn := ds, todo := m :: rest } = .next s') := by
  cases ht : s.todo with
  | cons m rest => exact .inr (.inl ⟨m, rest, rfl, by rw [← h, step_of_busy ht]⟩)
  | nil =>
    cases hd : s.hostIn with
    | nil =>
      rw [step_of_nothing ht hd] at h
      exact .inl ⟨rfl, rfl, (Host.Outcome.next.inj h).symm⟩
    | cons d ds =>
      cases hdec : decode d with
      | rejected w => rw [step_of_illegal ht hd hdec] at h; cases h
      | ok i =>
        obtain ⟨m, rest, hc, he⟩ := exec_of_idle (s := { s with hostIn := ds }) ht i
        rw [step_of_legal ht hd hdec, he] at h
        exact .inr (.inr ⟨d, ds, i, m, rest, rfl, rfl, hdec, hc, h⟩)

end Sys2Proof.Machine
end

