-- ==== Sys2Proof/Laws/PerInstr.lean ====
section
/-! SUPPORT. Statements about every instruction as syntax, one lemma per constructor. -/

namespace Sys2Proof.Laws.EncodedOpcode

open Sys2Proof

/-- The descriptor of an instruction carries its operation code, which is not a reserved one (rules R51, R54). -/
def Statement (i : Instr) : Prop := (encode i).op = i.opcode ∧ (formatOf i.opcode).isSome = true

theorem request : Statement .request := ⟨pack_op .., rfl⟩
theorem requestFast : Statement .requestFast := ⟨pack_op .., rfl⟩
theorem release : Statement .release := ⟨pack_op .., rfl⟩
theorem isFree : Statement .isFree := ⟨pack_op .., rfl⟩
theorem transferFast (src : BitVec 32) (dest len : BitVec 16) (inc : Byte) (tgt : Target) :
    Statement (.transferFast src dest len inc tgt) := ⟨pack_op .., rfl⟩
theorem transfer (src : BitVec 32) (dest len : BitVec 16) (inc : Byte) (tgt : Target) :
    Statement (.transfer src dest len inc tgt) := ⟨pack_op .., rfl⟩
theorem fill (dest len : BitVec 16) (val inc : Byte) : Statement (.fill dest len val inc) := ⟨pack_op .., rfl⟩
theorem wait : Statement .wait := ⟨pack_op .., rfl⟩
theorem pushFast (src : BitVec 32) (dest len : BitVec 16) (inc : Byte) (tgt : Target) :
    Statement (.pushFast src dest len inc tgt) := ⟨pack_op .., rfl⟩
theorem push (src : BitVec 32) (dest len : BitVec 16) (inc : Byte) (tgt : Target) :
    Statement (.push src dest len inc tgt) := ⟨pack_op .., rfl⟩
theorem flush : Statement .flush := ⟨pack_op .., rfl⟩
theorem size : Statement .size := ⟨pack_op .., rfl⟩
theorem clear : Statement .clear := ⟨pack_op .., rfl⟩

end Sys2Proof.Laws.EncodedOpcode
end

