-- ==== Sys2Proof/Tests/Slice0.lean ====
section
/-! SUPPORT. The model's own tests. Expected values are those of the spec's vectors (`95_test_vectors.md`, named in each
docstring) or written out by hand from its encodings; the last section shows, for every obligation with hypotheses, states
and operands that meet them. -/

namespace Sys2Proof.Tests

open Sys2Proof Sys2Proof.Machine

/-! ## Helpers -/

/-- The reset state with the environment's answers listed. -/
def asked (status busstat : List Word) : State := { State.reset with statusIn := status, busstatIn := busstat }

/-- The state after a REQUEST_FAST from `asked status busstat`, with an empty trace. -/
def inBracket (status busstat : List Word) : State :=
  { asked status busstat with
    owner := .main
    bus := { busreq := 0x0100#16, copreset := 0x0100#16, copResetMayBeOn := true, coproc := .silenced } }

/-- A state with `QCAP = q` and `CURSOR = n`. -/
def queued (q n : Nat) : State := { State.resetWith { Params.default with qcap := q } with cursor := n }

/-- The command, then `n` more steps. -/
def runs (i : Instr) (n : Nat) (s : State) : Result := Result.andThen (exec i s) (steps n)

/-- A view of the state a run ends in. -/
def seen {α : Type} (f : State → α) : Result → Option α
  | .next s => some (f s)
  | .fault _ | .refused _ => none

/-- The fault a run ends in. -/
def faultOf : Result → Option Fault
  | .fault f => some f
  | .next _ | .refused _ => none

/-- Words written to the control port. -/
def ctrl (ws : List Word) : List Event := ws.map (.write .ctrl)

/-! ## The encodings, written out bit by bit (rules R51, R52, R54) -/

/-- The arbiter family, descriptors of V7. -/
theorem test_decode_arbiter :
    decode 0x000000000000000000000000#96 = .ok .request ∧ decode 0x010000000000000000000000#96 = .ok .requestFast ∧
    decode 0x020000000000000000000000#96 = .ok .release ∧ decode 0x030000000000000000000000#96 = .ok .isFree := by decide

/-- The engine family, descriptors of V4.6, V4.10, V5 row 3, V6. -/
theorem test_decode_engine :
    decode 0x1000020_0000AC00000001000#96 = .ok (.transferFast 0x1000#32 0xC000#16 10#16 2#8 .vram) ∧
    decode 0x110102000010FFF8FFFFFFF0#96 = .ok (.transfer 0xFFFFFFF0#32 0xFFF8#16 16#16 2#8 .cram) ∧
    decode 0x1200025A0100FFFF00000000#96 = .ok (.fill 0xFFFF#16 0x100#16 0x5A#8 2#8) ∧
    decode 0x130000000000000000000000#96 = .ok .wait := by decide

/-- The queue family, descriptors of V2 row 3, P5, V7, V8.5. -/
theorem test_decode_queue :
    decode 0x200204000014000000FF1234#96 = .ok (.pushFast 0xFF1234#32 0#16 0x14#16 4#8 .vsram) ∧
    decode 0x21000200000C01000003FFF0#96 = .ok (.push 0x3FFF0#32 0x100#16 12#16 2#8 .vram) ∧
    decode 0x220000000000000000000000#96 = .ok .flush ∧ decode 0x230000000000000000000000#96 = .ok .size ∧
    decode 0x240000000000000000000000#96 = .ok .clear := by decide

/-- V9, the illegal descriptors and the reason of each. -/
theorem test_decode_illegal :
    decode 0x040000000000000000000000#96 = .rejected .reservedOp ∧
    decode 0x140000000000000000000000#96 = .rejected .reservedOp ∧
    decode 0xFF0000000000000000000000#96 = .rejected .reservedOp ∧
    decode 0x000002000000000000000000#96 = .rejected .unusedFieldNotZero ∧
    decode 0x21800200000AC00000001000#96 = .rejected .reservedTarget ∧
    decode 0x11000201000AC00000001000#96 = .rejected .unusedFieldNotZero ∧
    decode 0x120101FF0002100000000000#96 = .rejected .unusedFieldNotZero ∧
    decode 0x120001FF0002100000000002#96 = .rejected .unusedFieldNotZero := by decide

/-- V9, the two legal descriptors at the edges. -/
theorem test_decode_legal_extremes :
    decode 0x110000000000000000000000#96 = .ok (.transfer 0#32 0#16 0#16 0#8 .vram) ∧
    decode 0x2002FF00FFFFFFFFFFFFFFFF#96 = .ok (.pushFast 0xFFFFFFFF#32 0xFFFF#16 0xFFFF#16 0xFF#8 .vsram) := by decide

/-- The encoder on a row of V2. -/
theorem test_encode_pushFast :
    encode (.pushFast 0xFF8000#32 0#16 0x40#16 2#8 .cram) = 0x200102000040000000FF8000#96 := by decide

/-- No descriptor fits two rows of the opcode table. -/
theorem test_opcode_rows_apart : opcodeRows.Pairwise (fun r t => r.apart t = true) := by decide

/-- Rule R66: the spec's own example, with `VRAM_CMD` as another spelling, and two texts that are no command. -/
theorem test_parse :
    parse "PUSH_FAST 0x1000, 0xC000, 10, 2, VRAM".toList = some (.pushFast 0x1000#32 0xC000#16 10#16 2#8 .vram) ∧
    parse "PUSH_FAST 0x1000,0xC000,10,2,VRAM_CMD".toList = some (.pushFast 0x1000#32 0xC000#16 10#16 2#8 .vram) ∧
    parse "FILL 0x1000, 2, 0xFF, 1".toList = some (.fill 0x1000#16 2#16 0xFF#8 1#8) ∧
    parse "WAIT".toList = some .wait ∧ parse "FILL 0x1000, 2, 256, 1".toList = none ∧
    parse "SIZE 1".toList = none := by decide

/-! ## What is not well formed is refused (rules R5, R64) -/

/-- One ill-formed parameter table for each constraint of rule R5, each refused by its own check and by `Params.wf`. -/
theorem test_wf_params :
    Params.default.wf = true ∧
    ({ Params.default with qcap := 0 } : Params).qcapOk = false ∧
    ({ Params.default with qcap := 65536 } : Params).wf = false ∧
    ({ Params.default with selLenh := 0x13#5 } : Params).selsDistinct = false ∧
    ({ Params.default with regwSelLsb := 7 } : Params).selLsbOk = false ∧
    ({ Params.default with fillSelect := 0x5780#16 } : Params).fillSelectOk = false ∧
    ({ Params.default with baseDma := ⟨0x40010080#32, 0xC0000080#32, 0x40000090#32⟩ } : Params).baseDma.ok = false ∧
    ({ Params.default with baseSet := ⟨0x40000000#32, 0xC0000001#32, 0x40000010#32⟩ } : Params).baseSet.ok = false ∧
    ({ Params.default with fillBase := 0x40000000#32 } : Params).fillBaseOk = false ∧
    ({ Params.default with statusDmaBit := 16 } : Params).statusBitOk = false ∧
    ({ Params.default with busreqAssert := 0#16 } : Params).busreqOk = false ∧
    ({ Params.default with addrData := 0xC00004#32 } : Params).addrsDistinct = false := by decide

/-- The same tables are refused as wholes. -/
theorem test_wf_params_whole :
    ([{ Params.default with qcap := 0 }, { Params.default with selLenh := 0x13#5 },
      { Params.default with regwSelLsb := 7 }, { Params.default with fillSelect := 0x5780#16 },
      { Params.default with baseDma := ⟨0x40010080#32, 0xC0000080#32, 0x40000090#32⟩ },
      { Params.default with baseSet := ⟨0x40000000#32, 0xC0000001#32, 0x40000010#32⟩ },
      { Params.default with fillBase := 0x40000000#32 }, { Params.default with statusDmaBit := 16 },
      { Params.default with busreqAssert := 0#16 }, { Params.default with addrData := 0xC00004#32 }] :
        List Params).all (fun p => !p.wf) = true := by decide

/-- One ill-formed descriptor for each condition of rule R64, and `TGT = 2`, the last legal selector. -/
theorem test_wf_descriptor :
    Descriptor.reservedOp 0x250000000000000000000000#96 = true ∧
    Descriptor.unusedFieldNotZero 0x220000000000000000000001#96 = true ∧
    Descriptor.unusedFieldNotZero 0x11000201000AC00000001000#96 = true ∧
    Descriptor.unusedFieldNotZero 0x120001FF0002100000000002#96 = true ∧
    Descriptor.reservedTarget 0x10030200000AC00000001000#96 = true ∧
    Descriptor.legal 0x10030200000AC00000001000#96 = false ∧
    Descriptor.legal 0x10020200000AC00000001000#96 = true := by decide

/-! ## The words (V1 to V3, V11) -/

/-- V1: register-write words for both positions of the select code. -/
theorem test_regw :
    regw Params.default 0x13#5 0x0A#8 = 0x930A#16 ∧ regw Params.default 0x17#5 0x7F#8 = 0x977F#16 ∧
    regw { Params.default with regwSelLsb := 9 } 0x13#5 0x0A#8 = 0xA60A#16 ∧
    regw { Params.default with regwSelLsb := 9 } 0x0F#5 0xFF#8 = 0x9EFF#16 := by decide

/-- V1: trigger commands. -/
theorem test_trig :
    trig 0x40000080#32 0x3FFF#16 = 0x7FFF0080#32 ∧ trig 0x40000080#32 0x4000#16 = 0x40000081#32 ∧
    trig 0x40000080#32 0xFFFF#16 = 0x7FFF0083#32 ∧ trig 0xC0000080#32 0x0020#16 = 0xC0200080#32 ∧
    trig 0x40000090#32 0x004E#16 = 0x404E0090#32 := by decide

/-- V2: four rows. -/
theorem test_build :
    (build Params.default 0x1000#32 0xC000#16 10#16 2#8 .vram).words =
      [0x8F02#16, 0x930A#16, 0x9400#16, 0x9500#16, 0x9608#16, 0x9700#16, 0x4000#16, 0x0083#16] ∧
    (build Params.default 0xFF1234#32 0#16 0x14#16 4#8 .vsram).words =
      [0x8F04#16, 0x9314#16, 0x9400#16, 0x951A#16, 0x9689#16, 0x977F#16, 0x4000#16, 0x0090#16] ∧
    (build Params.default 0x1FFFFFE#32 0x4000#16 1#16 2#8 .vram).words =
      [0x8F02#16, 0x9301#16, 0x9400#16, 0x95FF#16, 0x96FF#16, 0x977F#16, 0x4000#16, 0x0081#16] ∧
    (build Params.default 0xFFFFFFFE#32 0x8001#16 0x1234#16 0xFF#8 .vram).words =
      [0x8FFF#16, 0x9334#16, 0x9412#16, 0x95FF#16, 0x96FF#16, 0x977F#16, 0x4001#16, 0x0082#16] := by decide

/-- V3: `REMAIN` and the crossing predicate. -/
theorem test_remain :
    remain 0x00000000#32 = 0x10000 ∧ remain 0x00000002#32 = 0xFFFF ∧ remain 0x0001FFFE#32 = 1 ∧
    remain 0x00020000#32 = 0x10000 ∧ remain 0x12345678#32 = 0xD4C4 ∧ remain 0xFFFFFFFE#32 = 1 ∧
    remain 0x0001FFFD#32 = 1 ∧ remain 0x0001FFFF#32 = 0 ∧ crosses 0x0001FF00#32 0x80#16 = false ∧
    crosses 0x0001FF00#32 0x81#16 = true ∧ crosses 0x00020000#32 0xFFFF#16 = false ∧
    crosses 0x0001FFFF#32 1#16 = true := by decide

/-- V11: responses as bits. -/
theorem test_response_bits :
    Response.bits ⟨true, 0#16⟩ = 0x10000#17 ∧ Response.bits ⟨false, 0#16⟩ = 0x00000#17 ∧
    Response.bits ⟨true, 65535#16⟩ = 0x1FFFF#17 := by decide

/-! ## The arbiter (V7) -/

/-- V7 row 1. -/
theorem test_request :
    seen (fun s => (s.trace, s.responses, s.owner)) (runs .request 4 (asked [] [0x0100#16, 0#16])) =
      some ([.write .busreq 0x0100#16, .write .copreset 0x0100#16, .read .busstat 0x0100#16, .read .busstat 0#16],
        [⟨true, 0#16⟩], .main) := by decide

/-- V7 row 9. -/
theorem test_request_nested : faultOf (exec .request (inBracket [] [])) = some .busProtocol := by decide

/-- V7 row 4. -/
theorem test_requestFast :
    seen (fun s => (s.trace, s.responses, s.owner)) (runs .requestFast 1 (asked [] [])) =
      some ([.write .busreq 0x0100#16], [⟨true, 0#16⟩], .main) := by decide

/-- V7 row 5. -/
theorem test_release :
    seen (fun s => (s.trace, s.responses, s.owner)) (runs .release 1 (inBracket [] [])) =
      some ([.write .busreq 0#16], [⟨true, 0#16⟩], .coproc) := by decide

/-- V7 row 11, V10: the first command after reset is a RELEASE. -/
theorem test_release_unmatched : faultOf (exec .release State.reset) = some .busProtocol := by decide

/-- V7 rows 7 and 8. -/
theorem test_isFree :
    seen (fun s => (s.trace, s.responses)) (runs .isFree 1 (asked [] [0x0100#16])) =
      some ([.read .busstat 0x0100#16], [⟨true, 0#16⟩]) ∧
    seen (fun s => (s.trace, s.responses)) (runs .isFree 1 (inBracket [] [0xFEFF#16])) =
      some ([.read .busstat 0xFEFF#16], [⟨true, 1#16⟩]) := by decide

/-! ## The engine (V4 to V6, P2) -/

/-- V4.10. -/
theorem test_transferFast :
    seen (fun s => (s.trace, s.responses, s.owner))
      (runs (.transferFast 0x1000#32 0xC000#16 10#16 2#8 .vram) 12 (asked [2#16, 0#16] [])) =
    some ([.read .status 2#16, .read .status 0#16] ++
      ctrl [0x8F02#16, 0x930A#16, 0x9400#16, 0x9500#16, 0x9608#16, 0x9700#16, 0x4000#16] ++
      [.write .busreq 0x0100#16, .write .ctrl 0x0083#16, .write .busreq 0#16], [⟨true, 0#16⟩], .coproc) := by decide

/-- V4.11: inside a bracket the fault comes after the seventh control write. -/
theorem test_transferFast_nested :
    seen (fun s => s.trace)
      (runs (.transferFast 0x1000#32 0xC000#16 10#16 2#8 .vram) 7 (inBracket [0#16] [])) =
    some (.read .status 0#16 :: ctrl [0x8F02#16, 0x930A#16, 0x9400#16, 0x9500#16, 0x9608#16, 0x9700#16, 0x4000#16]) ∧
    faultOf (runs (.transferFast 0x1000#32 0xC000#16 10#16 2#8 .vram) 8 (inBracket [0#16] [])) =
      some .busProtocol := by decide

/-- V4.6: both addresses wrap. -/
theorem test_transfer_crossing :
    seen (fun s => (s.trace, s.responses))
      (runs (.transfer 0xFFFFFFF0#32 0xFFF8#16 16#16 2#8 .cram) 22 (asked [0#16, 0#16] [])) =
    some (.read .status 0#16 :: ctrl [0x8F02#16, 0x9308#16, 0x9400#16, 0x9500#16, 0x9600#16, 0x9700#16, 0xC008#16] ++
      [.write .busreq 0x0100#16, .write .ctrl 0x0080#16, .write .busreq 0#16, .read .status 0#16] ++
      ctrl [0x8F02#16, 0x9308#16, 0x9400#16, 0x95F8#16, 0x96FF#16, 0x977F#16, 0xFFF8#16] ++
      [.write .busreq 0x0100#16, .write .ctrl 0x0083#16, .write .busreq 0#16], [⟨true, 0#16⟩]) := by decide

/-- V4.12: the failure is tested first, even inside a bracket. -/
theorem test_transfer_failure :
    seen (fun s => (s.trace, s.responses, s.owner))
      (exec (.transfer 0x1000#32 0xC000#16 10#16 1#8 .vram) (inBracket [] [])) =
    some ([], [⟨false, 0#16⟩], .main) := by decide

/-- V5 row 3. -/
theorem test_fill :
    seen (fun s => (s.trace, s.responses)) (runs (.fill 0xFFFF#16 0x100#16 0x5A#8 2#8) 8 (asked [0#16] [])) =
    some (.read .status 0#16 :: ctrl [0x8F02#16, 0x93FF#16, 0x9400#16, 0x9780#16, 0x7FFF#16, 0x0083#16] ++
      [.write .data 0x5A5A#16], [⟨true, 0#16⟩]) := by decide

/-- V5 rows 5 and 7: the short fill, and a fill inside a bracket. -/
theorem test_fill_short_and_bracket :
    seen (fun s => (s.trace, s.responses)) (exec (.fill 0#16 1#16 0xAA#8 1#8) (asked [] [])) =
      some ([], [⟨false, 0#16⟩]) ∧
    seen (fun s => (s.responses, s.owner)) (runs (.fill 0#16 2#16 0#8 0#8) 8 (inBracket [0#16] [])) =
      some ([⟨true, 0#16⟩], .main) := by decide

/-- V6: every bit but bit 1 set is one read; two busy words are three. -/
theorem test_wait :
    seen (fun s => (s.trace, s.responses)) (runs .wait 1 (asked [0xFFFD#16] [])) =
      some ([.read .status 0xFFFD#16], [⟨true, 0#16⟩]) ∧
    seen (fun s => (s.trace, s.responses)) (runs .wait 3 (asked [2#16, 2#16, 0#16] [])) =
      some ([.read .status 2#16, .read .status 2#16, .read .status 0#16], [⟨true, 0#16⟩]) := by decide

/-! ## The queue (V8, P1, P3, P5) -/

/-- P1 step 2. -/
theorem test_pushFast :
    seen (fun s => (s.cursor, s.slots.head?, s.responses, s.trace))
      (runs (.pushFast 0x1000#32 0xC000#16 10#16 2#8 .vram) 9 State.reset) =
    some (1, some ⟨0x8F02#16, 0x930A#16, 0x9400#16, 0x9500#16, 0x9608#16, 0x9700#16, 0x4000#16, 0x0083#16⟩,
      [⟨true, 0#16⟩], []) := by decide

/-- V8.1, the last command. -/
theorem test_pushFast_full : faultOf (exec (.pushFast 0#32 0#16 1#16 2#8 .vram) (queued 1 1)) = some .queueOverflow := by
  decide

/-- V8.2: the tail, then the head. -/
theorem test_push_crossing :
    seen (fun s => (s.cursor, s.slots, s.responses))
      (runs (.push 0x1FF00#32 0x2000#16 0x100#16 2#8 .vram) 18 (queued 2 0)) =
    some (2, [⟨0x8F02#16, 0x9380#16, 0x9400#16, 0x9500#16, 0x9600#16, 0x9701#16, 0x6100#16, 0x0080#16⟩,
      ⟨0x8F02#16, 0x9380#16, 0x9400#16, 0x9580#16, 0x96FF#16, 0x9700#16, 0x6000#16, 0x0080#16⟩],
      [⟨true, 0#16⟩]) := by decide

/-- P3 step 4: one slot free, a crossing request. -/
theorem test_push_no_room :
    seen (fun s => (s.cursor, s.slots == (queued 4 3).slots, s.responses))
      (exec (.push 0x1FF00#32 0x2000#16 0x100#16 2#8 .vram) (queued 4 3)) = some (3, true, [⟨false, 0#16⟩]) := by decide

/-- S4: an empty queue. -/
theorem test_flush_empty :
    seen (fun s => (s.trace, s.responses, s.cursor)) (runs .flush 3 State.reset) =
      some ([.write .busreq 0x0100#16, .write .busreq 0#16], [⟨true, 0#16⟩], 0) := by decide

/-- P1 step 4. -/
theorem test_flush_one :
    seen (fun s => (s.trace, s.cursor))
      (Result.andThen (runs (.pushFast 0x1000#32 0xC000#16 10#16 2#8 .vram) 9 State.reset) (runs .flush 11)) =
    some (.write .busreq 0x0100#16 ::
      ctrl [0x8F02#16, 0x930A#16, 0x9400#16, 0x9500#16, 0x9608#16, 0x9700#16, 0x4000#16, 0x0083#16] ++
      [.write .busreq 0#16], 0) := by decide

/-- P3 step 5. -/
theorem test_size : seen (fun s => (s.responses, s.cursor)) (exec .size (queued 4 3)) = some ([⟨true, 3#16⟩], 3) := by
  decide

/-- P5 step 3 and rule R104's example. -/
theorem test_clear :
    seen (fun s => (s.responses, s.cursor, s.trace)) (runs .clear 1 (queued 4 3)) = some ([⟨true, 0#16⟩], 0, []) := by decide

/-! ## The devices and the interface -/

/-- The words of V5 row 1 leave the device with the length 1, the fill source selected, the command whole and the seed. -/
theorem test_fill_device :
    seen (fun s => (s.vdp.lenl, s.vdp.fillSource, s.vdp.command, s.vdp.seed, s.vdp.mayBeInFlight))
      (runs (.fill 0x1000#16 2#16 0xFF#8 1#8) 7 (asked [0#16] [])) =
    some (1#8, true, some 0x50000080#32, some 0xFFFF#16, true) := by decide

/-- Rule R133 (d), (e): that fill takes the seed and writes 2 bytes. -/
theorem test_fill_operation :
    seen (fun s => s.vdp.operations) (runs (.fill 0x1000#16 2#16 0xFF#8 1#8) 8 (asked [0#16] [])) =
      some [⟨0x50000080#32, 1#16, 1#8, .fill (some 0xFFFF#16), false⟩] ∧
    DmaOperation.bytes ⟨0x50000080#32, 1#16, 1#8, .fill (some 0xFFFF#16), false⟩ = some 2 := by decide

/-- Rule R133 (b), (c): V1's transfer is a copy of 10 words from the word address 0x800; two of them in one FLUSH may corrupt
each other. -/
theorem test_copy_operations :
    seen (fun s => s.vdp.operations)
      (runs (.transferFast 0x1000#32 0xC000#16 10#16 2#8 .vram) 10 (asked [0#16] [])) =
      some [⟨0x40000083#32, 10#16, 2#8, .copy 0x800#24, false⟩] ∧
    seen (fun s => s.vdp.operations.map DmaOperation.mayBeCorrupted) (runs .flush 17
      { State.reset with cursor := 2, slots := List.replicate 4 (build Params.default 0x1000#32 0xC000#16 10#16 2#8 .vram) }) =
      some [true, true] := by decide

/-- Rule R8: in a PUSH_FAST the slot is written field by field, then the cursor, then the response is given, a step each. -/
theorem test_pushFast_steps :
    seen (fun s => (s.slots.head?, s.cursor)) (exec (.pushFast 0x1000#32 0xC000#16 10#16 2#8 .vram) State.reset) =
      some (some ⟨0x8F02#16, 0#16, 0#16, 0#16, 0#16, 0#16, 0#16, 0#16⟩, 0) ∧
    seen (fun s => (s.cursor, s.responses)) (runs (.pushFast 0x1000#32 0xC000#16 10#16 2#8 .vram) 7 State.reset) =
      some (0, []) ∧
    seen (fun s => (s.cursor, s.responses)) (runs (.pushFast 0x1000#32 0xC000#16 10#16 2#8 .vram) 8 State.reset) =
      some (1, []) := by decide

/-- Rules R23, R25, R71: the co-processor reset register is not asserted at reset, and REQUEST writes `COPRESET_RELEASE` to
it. -/
theorem test_copreset :
    State.reset.bus.copreset = 0x0100#16 ∧
    seen (fun s => (s.bus.copreset, s.bus.copResetMayBeOn))
      (runs .request 1 (State.resetWith { Params.default with copresetRelease := 0x00FF#16 })) =
    some (0x00FF#16, false) := by decide

/-- Rule R37: a trigger-low written again starts a second transfer; after another control word it does not. -/
theorem test_repeated_trigger_low :
    (([0x4000#16, 0x0080#16, 0x0080#16] : List Word).foldl (fun d w => d.control Params.default w) Vdp.reset).starts = 2 ∧
    (([0x4000#16, 0x0080#16, 0x8F02#16, 0x0080#16] : List Word).foldl
      (fun d w => d.control Params.default w) Vdp.reset).starts = 1 ∧
    (([0x4000#16, 0x0000#16, 0x0000#16] : List Word).foldl (fun d w => d.control Params.default w) Vdp.reset).starts = 0 := by
  decide

/-- The table's word of SIZE decodes, and the first step after reset runs it. -/
theorem test_fetch_word :
    decodeTableWord 96 0x230000000000000000000000 = some .size ∧
    seen (fun s => s.responses) (step (State.reset.withFetchWord 96 0x230000000000000000000000)) =
      some [⟨true, 0#16⟩] ∧
    faultOf (step (State.reset.withFetchWord 96 0x250000000000000000000000)) = some .illegalCommand := by decide

/-! ## The hypotheses of the obligations can be met

One theorem for each obligation with hypotheses, each clause or branch at a boundary value. -/

/-- A property of the words of a list, from its evaluation on the list. -/
theorem all_listed {b : Bool} (f : Word → Bool) (ws : List Word) (h : (ws.all fun w => f w == b) = true) :
    ∀ w ∈ ws, f w = b := by simpa using h

/-- A state about to run a WAIT's loop. -/
def polling (ws : List Word) : State := { asked ws [] with todo := [.pollStatus, .respond true 0#16] }

theorem witness_EncodeOfDecodeIsTheDescriptor :
    ∃ d i, decode d = .ok i := ⟨0x2002FF00FFFFFFFFFFFFFFFF#96, _, rfl⟩

theorem witness_EachInstructionFitsItsOpcodeRowAlone :
    ∃ (i : Instr) (r q : OpRow), r ∈ opcodeRows ∧ q ∈ opcodeRows ∧ r.mnemonic = mnemonic i ∧ q.mnemonic ≠ mnemonic i :=
  ⟨.wait, ⟨"WAIT", 0xFFFFFFFFFFFFFFFFFFFFFFFF#96, 0x130000000000000000000000#96⟩,
    ⟨"CLEAR", 0xFFFFFFFFFFFFFFFFFFFFFFFF#96, 0x240000000000000000000000#96⟩, by decide, by decide, by decide, by decide⟩

theorem witness_IllegalDescriptorFaults :
    ∃ (s t : State) (d e : Descriptor), s.todo = [] ∧ s.hostIn = [d] ∧ d.legal = false ∧
      t.todo = [] ∧ t.hostIn = [e] ∧ e.legal = true :=
  ⟨{ State.reset with hostIn := [0x10030200000AC00000001000#96] },
    { State.reset with hostIn := [0x10020200000AC00000001000#96] }, _, _, rfl, rfl, by decide, rfl, rfl, by decide⟩

theorem witness_RegisterWriteWordLayout :
    ∃ p q : Params, p.selLsbOk = true ∧ p.regwSelLsb = 8 ∧ q.selLsbOk = true ∧ q.regwSelLsb = 9 :=
  ⟨Params.default, { Params.default with regwSelLsb := 9 }, by decide⟩

theorem witness_TriggerCommandLayout : baseOk 0xC000FFFC#32 = true ∧ baseOk 0x40000090#32 = true := by decide

theorem witness_SourceBitsOutsideTheWordAddressAreDropped :
    ∃ src src' : BitVec 32, src ≠ src' ∧ src.extractLsb' 1 24 = src'.extractLsb' 1 24 :=
  ⟨0xFFFFFFFF#32, 0x01FFFFFE#32, by decide⟩

/-- The last clause too, with a copy that straddles. -/
theorem witness_TransferWordsProgramTheDevice :
    ∃ (p : Params) (d : Vdp) (t : Target), p.wf = true ∧ d.half = none ∧ (baseDma p t).extractLsb' 30 2 ≠ 0b10#2 ∧
      ((build p 0x1FFFE#32 0#16 2#16 2#8 t).words.foldl (fun d w => d.control p w) d).fillSource = false ∧
      (0x1FFFE#32).getLsbD 0 = false ∧ Segment.corrupted ⟨0x1FFFE#32, 0#16, 2#16⟩ = true :=
  ⟨Params.default, Vdp.reset, .cram, by decide⟩

theorem witness_FillWordsProgramTheDevice :
    ∃ (p : Params) (d : Vdp), p.wf = true ∧ d.half = none ∧ p.fillBase.extractLsb' 30 2 ≠ 0b10#2 ∧
      2 ≤ (2#16).toNat ∧ 2 ≤ (0xFFFF#16).toNat ∧ selectOf p p.fillSelect = p.selSrch ∧
      (∀ sel ∈ [p.selAutoinc, p.selLenl, p.selLenh, p.selSrcl, p.selSrcm], selectOf p p.fillSelect ≠ sel) :=
  ⟨Params.default, Vdp.reset, by decide, rfl, by decide, by decide, by decide, by decide, by
    simp only [List.forall_mem_cons, List.not_mem_nil, false_imp_iff, implies_true, and_true]; decide⟩

theorem witness_RepeatedTriggerLowStartsASecondTransfer :
    ∃ s : State, s.vdp.half = some 0x4000#16 ∧ startsDma s.params (0x4000#16 ++ 0x0083#16) = true ∧
      isRegWrite 0x0083#16 = false :=
  ⟨{ State.reset with vdp := { Vdp.reset with half := some 0x4000#16 } }, by decide⟩

theorem witness_TransfersWithoutAWaitMayCorruptEachOther :
    ∃ (p : Params) (d : Vdp) (w : Word), p.wf = true ∧ d.half = none ∧ (baseDma p .vram).extractLsb' 30 2 ≠ 0b10#2 ∧
      (baseDma p .cram).extractLsb' 30 2 ≠ 0b10#2 ∧ dmaBusy p w = false :=
  ⟨Params.default, Vdp.reset, 0#16, by decide⟩

theorem witness_RemainCountsWordsToTheBoundary :
    (0x1FFFE#32).getLsbD 0 = false ∧ (0x20000#32).getLsbD 0 = false := by decide

/-- Both sides of the equivalence, at a length equal to `REMAIN` and one above it. -/
theorem witness_CrossingMeansLeavingTheWindow :
    (0x1FFFE#32).getLsbD 0 = false ∧ 1 ≤ (1#16).toNat ∧ crosses 0x1FFFE#32 1#16 = false ∧
      crosses 0x1FFFE#32 2#16 = true := by decide

theorem witness_SplitKeepsEachSegmentInOneWindow :
    (0x1FFFE#32).getLsbD 0 = false ∧ crosses 0x1FFFE#32 2#16 = true ∧
    (0xFFFE0004#32).getLsbD 0 = false ∧ crosses 0xFFFE0004#32 0xFFFF#16 = true := by decide

theorem witness_OddLastByteSplitsOffAZeroLengthHead : (0x1FFFF#32).toNat % 0x20000 = 0x1FFFF ∧ 3#16 ≠ 0#16 := by decide

/-- The two clauses of the statements about REQUEST_FAST and RELEASE. -/
theorem witness_RequestFastAcquiresWithoutWaiting :
    ∃ s t : State, s.todo = [] ∧ s.owner = .coproc ∧ t.todo = [] ∧ t.owner = .main :=
  ⟨asked [] [], inBracket [] [], by decide⟩

theorem witness_ReleaseGivesTheBusBack :
    ∃ s t : State, s.todo = [] ∧ s.owner = .main ∧ t.todo = [] ∧ t.owner = .coproc :=
  ⟨inBracket [] [], asked [] [], by decide⟩

theorem witness_IsFreeReportsTheWordRead :
    ∃ s t u : State, s.todo = [] ∧ granted s.params s.busstatWord = true ∧
      t.todo = [] ∧ granted t.params t.busstatWord = false ∧ u.todo = [] ∧ u.busstatIn = [] :=
  ⟨asked [] [0xFEFF#16], asked [] [0x0100#16], asked [] [], by decide⟩

/-- No word before the granted one, one word, and the faulting clause. -/
theorem witness_RequestAcquiresAndWaits :
    ∃ s t u : State, s.todo = [] ∧ s.owner = .coproc ∧ s.busstatIn = [] ++ 0#16 :: [] ∧
      granted s.params 0#16 = true ∧
      t.todo = [] ∧ t.owner = .coproc ∧ t.busstatIn = [0x0100#16] ++ 0#16 :: [] ∧
      (∀ w ∈ [0x0100#16], granted t.params w = false) ∧ u.todo = [] ∧ u.owner = .main :=
  ⟨asked [] [0#16], asked [] [0x0100#16, 0#16], inBracket [] [], by and_intros <;> first | rfl | exact all_listed _ _ rfl⟩

theorem witness_RequestHangsUntilGranted :
    ∃ s : State, s.todo = [] ∧ s.owner = .coproc ∧ s.busstatIn = [0x0100#16, 0xFFFF#16] ++ [] ∧
      (∀ w ∈ [0x0100#16, 0xFFFF#16], granted s.params w = false) :=
  ⟨asked [] [0x0100#16, 0xFFFF#16], by and_intros <;> first | rfl | exact all_listed _ _ rfl⟩

theorem witness_WaitPollsOnceAStep :
    ∃ s t u : State, s.todo = [] ∧ s.statusWord.getLsbD s.params.statusDmaBit = true ∧
      t.todo = [] ∧ t.statusWord.getLsbD t.params.statusDmaBit = false ∧ u.todo = [] ∧ u.statusIn = [] :=
  ⟨asked [2#16] [], asked [0xFFFD#16] [], asked [] [], by decide⟩

theorem witness_WaitEndsWithTheFirstClearWord :
    ∃ s t : State, s.todo = [] ∧ s.statusIn = [] ++ 0#16 :: [] ∧ dmaBusy s.params 0#16 = false ∧
      t.todo = [] ∧ t.statusIn = [2#16, 0xFFFF#16] ++ 0xFFFD#16 :: [0#16] ∧
      (∀ b ∈ [2#16, 0xFFFF#16], dmaBusy t.params b = true) ∧ dmaBusy t.params 0xFFFD#16 = false :=
  ⟨asked [0#16] [], asked [2#16, 0xFFFF#16, 0xFFFD#16, 0#16] [], by and_intros <;> first | rfl | exact all_listed _ _ rfl⟩

theorem witness_WaitHangsWhileBusy :
    ∃ s : State, s.todo = [] ∧ s.statusIn = 2#16 :: [3#16] ++ [] ∧ (∀ w ∈ 2#16 :: [3#16], dmaBusy s.params w = true) :=
  ⟨asked [2#16, 3#16] [], by and_intros <;> first | rfl | exact all_listed _ _ rfl⟩

/-- The hypotheses of the statements about TRANSFER_FAST outside a bracket, with no busy word and with two. -/
theorem witness_TransferFastIssuesTheEightWords :
    ∃ s t : State, s.todo = [] ∧ s.owner = .coproc ∧ s.statusIn = [] ++ 0#16 :: [] ∧ dmaBusy s.params 0#16 = false ∧
      t.todo = [] ∧ t.owner = .coproc ∧ t.statusIn = [2#16, 2#16] ++ 0#16 :: [] ∧
      (∀ b ∈ [2#16, 2#16], dmaBusy t.params b = true) ∧ dmaBusy t.params 0#16 = false :=
  ⟨asked [0#16] [], asked [2#16, 2#16, 0#16] [], by and_intros <;> first | rfl | exact all_listed _ _ rfl⟩

theorem witness_TriggerLowIsWrittenInsideTheBracket :
    ∃ s : State, s.todo = [] ∧ s.owner = .coproc ∧ s.statusIn = [2#16] ++ 0#16 :: [] ∧
      (∀ b ∈ [2#16], dmaBusy s.params b = true) ∧ dmaBusy s.params 0#16 = false :=
  ⟨asked [2#16, 0#16] [], by and_intros <;> first | rfl | exact all_listed _ _ rfl⟩

theorem witness_TransferFastInsideABracketFaultsAfterSevenWrites :
    ∃ s : State, s.todo = [] ∧ s.owner = .main ∧ s.statusIn = [2#16] ++ 0#16 :: [] ∧
      (∀ b ∈ [2#16], dmaBusy s.params b = true) ∧ dmaBusy s.params 0#16 = false :=
  ⟨inBracket [2#16, 0#16] [], by and_intros <;> first | rfl | exact all_listed _ _ rfl⟩

/-- Both branches: a crossing request and one that fits exactly. -/
theorem witness_TransferInsideABracketFaultsInItsFirstSegment :
    ∃ s : State, s.todo = [] ∧ s.owner = .main ∧ 2 ≤ (2#8).toNat ∧ 1 ≤ (1#16).toNat ∧
      s.statusIn = [] ++ 0#16 :: [] ∧ dmaBusy s.params 0#16 = false ∧
      remain 0x1FFFE#32 < (2#16).toNat ∧ ¬ remain 0x1FFFE#32 < (1#16).toNat :=
  ⟨inBracket [0#16] [], by and_intros <;> first | rfl | exact all_listed _ _ rfl | decide⟩

theorem witness_TransferFailureHasNoEffect :
    ∃ s t : State, s.todo = [] ∧ s.owner = .coproc ∧ t.todo = [] ∧ t.owner = .main ∧ (1#8).toNat < 2 ∧ (0#16) = 0#16 :=
  ⟨asked [] [], inBracket [] [], by decide⟩

theorem witness_TransferWithoutCrossingIsTransferFast :
    2 ≤ (2#8).toNat ∧ 1 ≤ (0x80#16).toNat ∧ (0x80#16).toNat ≤ remain 0x1FF00#32 ∧
      (0xFFFF#16).toNat ≤ remain 0x20000#32 := by decide

theorem witness_CrossingTransferIssuesTailThenHead :
    ∃ s : State, s.todo = [] ∧ s.owner = .coproc ∧ 2 ≤ (2#8).toNat ∧ remain 0x1FFFE#32 < (2#16).toNat ∧
      s.statusIn = [2#16] ++ 0#16 :: ([] ++ 0#16 :: []) ∧ (∀ b ∈ [2#16] ++ [], dmaBusy s.params b = true) ∧
      dmaBusy s.params 0#16 = false :=
  ⟨asked [2#16, 0#16, 0#16] [], by and_intros <;> first | rfl | exact all_listed _ _ rfl | decide⟩

theorem witness_ShortFillHasNoEffect :
    ∃ s : State, s.todo = [] ∧ (1#16).toNat < 2 ∧ (0#16).toNat < 2 := ⟨asked [] [], by decide⟩

theorem witness_FillProgramsOneLessAndSeeds :
    ∃ s t : State, s.todo = [] ∧ s.owner = .coproc ∧ 2 ≤ (2#16).toNat ∧ s.statusIn = [2#16] ++ 0#16 :: [] ∧
      (∀ b ∈ [2#16], dmaBusy s.params b = true) ∧ dmaBusy s.params 0#16 = false ∧
      t.todo = [] ∧ t.owner = .main ∧ 2 ≤ (0xFFFF#16).toNat ∧ t.statusIn = [] ++ 0#16 :: [] :=
  ⟨asked [2#16, 0#16] [], inBracket [0#16] [], by and_intros <;> first | rfl | exact all_listed _ _ rfl | decide⟩

theorem witness_OnlyTheInFlightBitIsLookedAt :
    ∃ s : State, s.todo = .pollStatus :: [.respond true 0#16] ∧
      (0xFFFD#16).getLsbD s.params.statusDmaBit = (0#16).getLsbD s.params.statusDmaBit ∧
      (0xFFFF#16).getLsbD s.params.statusDmaBit = (2#16).getLsbD s.params.statusDmaBit :=
  ⟨polling [], by decide⟩

/-- The last free slot, and the full queue. -/
theorem witness_PushFastAppendsOrOverflows :
    ∃ s t : State, s.todo = [] ∧ s.cursor + 1 = s.params.qcap ∧ s.cursor < s.params.qcap ∧
      t.todo = [] ∧ t.cursor = t.params.qcap :=
  ⟨queued 4 3, queued 4 4, by decide⟩

/-- The four ways to fail. -/
theorem witness_PushFailsClosed :
    ∃ s t : State, s.todo = [] ∧ (1#8).toNat < 2 ∧ (0#16) = 0#16 ∧ s.params.qcap - s.cursor = 0 ∧
      t.todo = [] ∧ remain 0x1FFFE#32 < (2#16).toNat ∧ t.params.qcap - t.cursor = 1 :=
  ⟨queued 4 4, queued 4 3, by decide⟩

theorem witness_PushWithoutCrossingAppendsOne :
    ∃ s : State, s.todo = [] ∧ 2 ≤ (2#8).toNat ∧ 1 ≤ (0x80#16).toNat ∧ (0x80#16).toNat ≤ remain 0x1FF00#32 ∧
      s.cursor < s.params.qcap :=
  ⟨queued 1 0, by decide⟩

theorem witness_CrossingPushAppendsTailThenHead :
    ∃ s : State, s.todo = [] ∧ 2 ≤ (2#8).toNat ∧ remain 0x1FF00#32 < (0x81#16).toNat ∧ s.cursor + 2 ≤ s.params.qcap :=
  ⟨queued 4 2, by decide⟩

/-- An empty and a full queue, and the faulting clause. -/
theorem witness_FlushReplaysTheQueueInOrder :
    ∃ s t u : State, s.Inv ∧ s.todo = [] ∧ s.owner = .coproc ∧ s.cursor = 0 ∧
      t.Inv ∧ t.todo = [] ∧ t.owner = .coproc ∧ t.cursor = t.params.qcap ∧ u.Inv ∧ u.todo = [] ∧ u.owner = .main :=
  ⟨State.reset, queued 4 4, inBracket [] [], by decide⟩

theorem witness_SizeReportsTheCursor :
    ∃ s t : State, s.todo = [] ∧ s.Inv ∧ s.cursor = s.params.qcap ∧ t.todo = [] ∧ t.owner = .main :=
  ⟨queued 4 4, inBracket [] [], by decide⟩

theorem witness_ClearEmptiesTheQueue : ∃ s : State, s.todo = [] ∧ s.cursor = s.params.qcap := ⟨queued 4 4, by decide⟩

/-- A crossing request and one that fits, with no busy word and with busy words before each clear one. -/
theorem witness_PushThenFlushWritesWhatTransferWrites :
    ∃ s t : State, s.Inv ∧ s.todo = [] ∧ s.owner = .coproc ∧ s.cursor = 0 ∧
      pushFails 0x1FFFE#32 2#16 2#8 s = false ∧ pushFails 0x1FFFE#32 1#16 2#8 s = false ∧
      s.statusIn = [] ++ 0#16 :: ([] ++ 0#16 :: []) ∧ dmaBusy s.params 0#16 = false ∧
      t.Inv ∧ t.todo = [] ∧ t.owner = .coproc ∧ t.cursor = 0 ∧ pushFails 0x1FFFE#32 2#16 2#8 t = false ∧
      t.statusIn = [2#16] ++ 0#16 :: ([3#16, 2#16] ++ 0xFFFD#16 :: [0#16]) ∧
      (∀ b ∈ [2#16] ++ [3#16, 2#16], dmaBusy t.params b = true) ∧ dmaBusy t.params 0#16 = false ∧
      dmaBusy t.params 0xFFFD#16 = false :=
  ⟨asked [0#16, 0#16] [], asked [2#16, 0#16, 3#16, 2#16, 0xFFFD#16, 0#16] [],
    by and_intros <;> first | rfl | exact all_listed _ _ rfl | decide⟩

/-- The three clauses. -/
theorem witness_StepRunsTheDecodedInstruction :
    (∃ (s : State) (d : Descriptor) (i : Instr), s.todo = [] ∧ s.hostIn = [d] ∧ decode d = .ok i) ∧
    (∃ s : State, s.todo = .pollStatus :: [.respond true 0#16]) ∧ (∃ s : State, s.todo = [] ∧ s.hostIn = []) :=
  ⟨⟨{ State.reset with hostIn := [0x130000000000000000000000#96] }, _, .wait, rfl, rfl, rfl⟩, ⟨polling [], rfl⟩,
    ⟨State.reset, rfl, rfl⟩⟩

theorem witness_NoCommandIsAcceptedWhileBusy : ∃ s : State, s.todo ≠ [] := ⟨polling [], by decide⟩

/-- Both clauses, and each fault. -/
theorem witness_CommandsFaultExactlyWhereTheSpecSays :
    ∃ s t u : State, s.todo = [] ∧ faultAtOnce .release s = some .busProtocol ∧ faultAtOnce .flush s = none ∧
      t.todo = [] ∧ faultAtOnce .flush t = some .busProtocol ∧ faultAtOnce .release t = none ∧
      u.todo = [] ∧ faultAtOnce (.pushFast 0#32 0#16 0#16 0#8 .vram) u = some .queueOverflow ∧
      faultAtOnce (.push 0#32 0#16 1#16 2#8 .vram) u = none :=
  ⟨State.reset, inBracket [] [], queued 1 1, by decide⟩

/-- A line that faults and one that does not, in states that meet the invariant. -/
theorem witness_OnlyAnAcquireFaultsMidOperation :
    ∃ s t : State, s.Inv ∧ s.todo = .acquireFast :: [.write .ctrl 0#16, .release, .respond true 0#16] ∧ s.owner = .main ∧
      t.Inv ∧ t.todo = .pollStatus :: [.respond true 0#16] :=
  ⟨{ inBracket [] [] with todo := [.acquireFast, .write .ctrl 0#16, .release, .respond true 0#16] }, polling [],
    by decide⟩

/-- A step inside an operation and a step that accepts a command. -/
theorem witness_StepKeepsTheInvariant :
    (∃ s s' : State, s.Inv ∧ s.todo ≠ [] ∧ step s = .next s') ∧
    (∃ s s' : State, s.Inv ∧ s.todo = [] ∧ s.hostIn ≠ [] ∧ step s = .next s') :=
  ⟨⟨polling [2#16], _, by decide, by decide, rfl⟩,
    ⟨{ State.reset with hostIn := [0x220000000000000000000000#96] }, _, by decide, by decide, by decide, rfl⟩⟩

theorem witness_ResetMeetsTheInvariant :
    ({ Params.default with qcap := 1 } : Params).wf = true ∧ ({ Params.default with qcap := 65535 } : Params).wf = true := by
  decide

theorem witness_ResetStateIsIdleAndEmpty : ∃ (p : Params) (i : Instr), p.wf = true ∧ i ≠ .release :=
  ⟨Params.default, .flush, by decide⟩

/-- An event, each kind of update, and the idle step. -/
theorem witness_AStepIsOneEventOrOneUpdate :
    (∃ s s' : State, step s = .next s' ∧ s'.trace ≠ s.trace) ∧ (∃ s s' : State, step s = .next s' ∧ s'.slots ≠ s.slots) ∧
    (∃ s s' : State, step s = .next s' ∧ s'.cursor = s.cursor + 1) ∧
    (∃ s s' : State, step s = .next s' ∧ s.cursor ≠ 0 ∧ s'.cursor = 0) ∧
    (∃ s s' : State, step s = .next s' ∧ s'.responses ≠ s.responses) ∧
    (∃ s s' : State, step s = .next s' ∧ s.todo = [] ∧ s.hostIn = []) :=
  ⟨⟨polling [2#16], _, rfl, by decide⟩,
    ⟨{ queued 4 1 with todo := [.storeField 7 0x0083#16, .advanceCursor, .respond true 0#16] }, _, rfl, by decide⟩,
    ⟨{ queued 4 3 with todo := [.advanceCursor, .respond true 0#16] }, _, rfl, rfl⟩,
    ⟨{ queued 4 4 with todo := [.emptyQueue, .respond true 0#16] }, _, rfl, by decide, rfl⟩,
    ⟨{ queued 4 4 with todo := [.respond true 0#16] }, _, rfl, by decide⟩, ⟨State.reset, _, rfl, rfl, rfl⟩⟩

/-- A step inside an operation, the step that ends it, and a command that ends in its first step. -/
theorem witness_AResponseEndsTheOperation :
    (∃ s s' : State, s.Inv ∧ step s = .next s' ∧ s'.todo ≠ []) ∧
    (∃ s s' : State, s.Inv ∧ step s = .next s' ∧ s.todo ≠ [] ∧ s'.todo = []) ∧
    (∃ s s' : State, s.Inv ∧ step s = .next s' ∧ s.todo = [] ∧ s.hostIn ≠ [] ∧ s'.todo = []) :=
  ⟨⟨polling [2#16], _, by decide, rfl, by decide⟩, ⟨{ State.reset with todo := [.respond true 0#16] }, _, by decide, rfl, by decide, by decide⟩,
    ⟨{ State.reset with hostIn := [0x230000000000000000000000#96] }, _, by decide, rfl, by decide, by decide, by decide⟩⟩

/-- An acquire from reset, and the release that ends a bracket. -/
theorem witness_BusRequestsAlternate :
    (∃ s s' : State, wordsTo .busreq s.trace = alternatingBusWords s.params 0 s.owner ∧ s.Inv ∧ step s = .next s' ∧
      s'.owner = .main) ∧
    (∃ s s' : State, wordsTo .busreq s.trace = alternatingBusWords s.params 0 s.owner ∧ s.Inv ∧ step s = .next s' ∧
      s.owner = .main ∧ s'.owner = .coproc) :=
  ⟨⟨{ State.reset with hostIn := [0x010000000000000000000000#96] }, _, by decide, by decide, rfl, rfl⟩,
    ⟨{ inBracket [] [] with hostIn := [0x020000000000000000000000#96], trace := [.write .busreq 0x0100#16] }, _,
      by decide, by decide, rfl, rfl, rfl⟩⟩

theorem witness_OwnerChangesOnlyWithABusRequest : ∃ s s' : State, step s = .next s' ∧ s'.owner ≠ s.owner :=
  ⟨{ State.reset with hostIn := [0x010000000000000000000000#96] }, _, rfl, by decide⟩

/-- A store inside an operation and one that accepts a command, with a queued slot before it. -/
theorem witness_OnlyPushesWriteSlots :
    (∃ s s' : State, step s = .next s' ∧ s.todo ≠ [] ∧ s'.slots ≠ s.slots ∧ 0 < s.cursor) ∧
    (∃ s s' : State, step s = .next s' ∧ s.todo = [] ∧ s'.slots ≠ s.slots ∧ 0 < s.cursor) :=
  ⟨⟨{ queued 4 3 with todo := [.storeField 7 0x0083#16, .advanceCursor, .respond true 0#16] }, _, rfl, by decide, by decide,
      by decide⟩,
    ⟨{ queued 4 3 with hostIn := [0x21000200000AC00000001000#96] }, _, rfl, rfl, by decide, by decide⟩⟩

/-- Each clause: a queue that a push fills and one it does not, a full one, a crossing request that fills the queue, a
failing one, a FLUSH, and a command that leaves the queue alone. -/
theorem witness_QueueStateTransitions :
    ∃ s t u v : State, s.Inv ∧ s.todo = [] ∧ queueState s.params.qcap s.cursor = .empty ∧ s.cursor + 1 = s.params.qcap ∧
      pushFails 0x1FF00#32 0x80#16 2#8 s = false ∧ crosses 0x1FF00#32 0x80#16 = false ∧ s.owner = .coproc ∧
      t.Inv ∧ t.todo = [] ∧ queueState t.params.qcap t.cursor = .accumulating ∧ t.cursor + 2 = t.params.qcap ∧
      pushFails 0x1FF00#32 0x81#16 2#8 t = false ∧ crosses 0x1FF00#32 0x81#16 = true ∧
      u.Inv ∧ u.todo = [] ∧ queueState u.params.qcap u.cursor = .full ∧ pushFails 0x1FF00#32 0x80#16 2#8 u = true ∧
      v.Inv ∧ v.todo = [] ∧ v.hostIn = [] ∧ v.cursor = 2 ∧ seen (fun w => w.cursor) (runs .request 3 v) = some 2 :=
  ⟨queued 1 0, queued 4 2, queued 4 4, { queued 4 2 with busstatIn := [0x0100#16, 0#16] }, by decide⟩

theorem witness_SafeCommandsDoNotFault :
    ∃ s t : State, s.todo = [] ∧ safeCommand .flush s = true ∧ t.todo = [] ∧ safeCommand .release t = true ∧
      safeCommand .flush t = false :=
  ⟨asked [] [], inBracket [] [], by decide⟩

/-- Each of the four premises, at an exact fit, and for TRANSFER and PUSH also at a split. -/
theorem witness_SafeTransfersStayInTheirWindows :
    ∃ s : State, safeCommand (.transfer 0x1FFFE#32 0#16 2#16 2#8 .vram) s = true ∧
      safeCommand (.push 0x1FFFE#32 0#16 2#16 2#8 .vram) s = true ∧
      safeCommand (.transferFast 0x1FFFE#32 0#16 1#16 2#8 .vram) s = true ∧
      safeCommand (.pushFast 0x1FFFE#32 0#16 1#16 2#8 .vram) s = true ∧
      safeCommand (.transferFast 0x1FFFE#32 0#16 2#16 2#8 .vram) s = false :=
  ⟨asked [] [], by decide⟩

end Sys2Proof.Tests
end

/-! Proofs of the family `00_scope.md` (rule R8): what one step is. -/

namespace Sys2Proof.Machine

open Sys2Proof

/-! ## One port access or one internal update -/

/-- One port access (rules R8, R36): the trace is one event longer; the queue and the responses are as they were. -/
def OneAccess (s t : State) : Prop :=
  t.slots = s.slots ∧ t.cursor = s.cursor ∧ t.responses = s.responses ∧ ∃ e, t.trace = s.trace ++ [e]

/-- One internal update (rules R8, R42): one field of the slot at `CURSOR`, or `CURSOR`, or one response more; the trace,
`OWNER` and the devices are as they were. -/
def OneUpdate (s t : State) : Prop :=
  t.trace = s.trace ∧ t.owner = s.owner ∧ t.vdp = s.vdp ∧ t.bus = s.bus ∧
    ((t.cursor = s.cursor ∧ t.responses = s.responses ∧
        ∃ k v, t.slots = s.slots.modify s.cursor (DmaCommand.setWord k v)) ∨
      (t.slots = s.slots ∧ t.responses = s.responses ∧ (t.cursor = s.cursor + 1 ∨ t.cursor = 0)) ∨
      (t.slots = s.slots ∧ t.cursor = s.cursor ∧ ∃ r, t.responses = s.responses ++ [r]))

section
variable (s : State) (rest : List Micro)

theorem oneAccess_memWrite (port : WritePort) (v : Word) : OneAccess s ((s.memWrite port v).goOn rest) := by
  simp [OneAccess]

theorem oneAccess_setOwner (o : Owner) : OneAccess s ((s.setOwner o).goOn rest) := by
  simp [OneAccess]

theorem oneAccess_readStatus : OneAccess s (s.readStatus.goOn rest) := by
  simp [OneAccess]

theorem oneAccess_readBusstat : OneAccess s (s.readBusstat.goOn rest) := by
  simp [OneAccess]

/-- What the CORE knows of the co-processor changes with an access, never as a step of its own (rule R77). -/
theorem OneAccess.setCoproc {s t : State} (h : CoprocHalt) (ha : OneAccess s t) : OneAccess s (t.setCoproc h) := ha

theorem oneUpdate_storeField (k : Fin 8) (v : Word) : OneUpdate s ((s.storeField k v).goOn rest) :=
  ⟨rfl, rfl, rfl, rfl, .inl ⟨rfl, rfl, k, v, rfl⟩⟩

theorem oneUpdate_setCursor {n : Nat} (hn : n = s.cursor + 1 ∨ n = 0) : OneUpdate s ((s.setCursor n).goOn rest) :=
  ⟨rfl, rfl, rfl, rfl, .inr (.inl ⟨rfl, rfl, hn⟩)⟩

theorem oneUpdate_respond (ok : Bool) (v : Word) : OneUpdate s (s.respond ok v) :=
  ⟨rfl, rfl, rfl, rfl, .inr (.inr ⟨rfl, rfl, _, rfl⟩)⟩

end

/-- A line that gives a next state makes one port access or one internal update (rule R8). -/
theorem perform_oneAccess_or_oneUpdate {m : Micro} {rest : List Micro} {s t : State} (h : perform m rest s = .next t) :
    OneAccess s t ∨ OneUpdate s t := by
  rcases perform_next h with ⟨_, _, _, rfl⟩ | ⟨_, _, rfl⟩ | ⟨_, _, rfl⟩ | ⟨_, _, rfl⟩ | ⟨_, _, rfl⟩ | ⟨_, _, rfl⟩ |
    ⟨_, _, rfl⟩ | ⟨_, _, rfl⟩ | ⟨_, rfl⟩ | ⟨_, _, _, _, rfl⟩ | ⟨_, rfl⟩ | ⟨_, rfl⟩ | ⟨_, _, _, rfl⟩
  · exact .inl (oneAccess_memWrite ..)
  · exact .inl (oneAccess_setOwner ..)
  · exact .inl ((oneAccess_setOwner s rest _).setCoproc _)
  · exact .inl (oneAccess_setOwner ..)
  · exact .inl (oneAccess_readStatus ..)
  · exact .inl (oneAccess_readStatus ..)
  · exact .inl ((oneAccess_readBusstat s rest).setCoproc _)
  · exact .inl (oneAccess_readBusstat ..)
  · exact .inl (oneAccess_readBusstat ..)
  · exact .inr (oneUpdate_storeField ..)
  · exact .inr (oneUpdate_setCursor s rest (.inl rfl))
  · exact .inr (oneUpdate_setCursor s rest (.inr rfl))
  · exact .inr (oneUpdate_respond ..)

/-- A step makes one access or one update, unless the sequencer is idle and no descriptor comes (rules R8, R20). Taking a
descriptor changes only `todo` and `hostIn`, of which neither kind of step speaks, so the first line of a command counts
as any other. -/
theorem step_oneAccess_or_oneUpdate {s s' : State} (h : step s = .next s') :
    OneAccess s s' ∨ OneUpdate s s' ∨ (s' = s ∧ s.todo = [] ∧ s.hostIn = []) := by
  rcases step_cases h with ⟨hidle, hnone, hsame⟩ | ⟨m, rest, _, hp⟩ | ⟨d, ds, i, m, rest, _, _, _, _, hp⟩
  · exact .inr (.inr ⟨hsame, hidle, hnone⟩)
  · exact (perform_oneAccess_or_oneUpdate hp).imp_right .inl
  · have hline := perform_oneAccess_or_oneUpdate hp
    exact hline.imp_right .inl

/-- Settles O52: `step_cases` reduces a step to one line of an operation, and each line is one access or one update. -/
theorem aStepIsOneEventOrOneUpdate : Obligations.AStepIsOneEventOrOneUpdate := by
  unfold Obligations.AStepIsOneEventOrOneUpdate
  intro s s' h
  exact step_oneAccess_or_oneUpdate h

/-! ## What a step runs -/

/-- Settles O45: the model's three equations for `step`, one for each case. -/
theorem stepRunsTheDecodedInstruction : Obligations.StepRunsTheDecodedInstruction := by
  unfold Obligations.StepRunsTheDecodedInstruction
  exact ⟨fun _ _ _ _ hidle hd hi => step_of_legal hidle hd hi, fun _ _ _ hbusy => step_of_busy hbusy,
    fun _ hidle hnone => step_of_nothing hidle hnone⟩

end Sys2Proof.Machine

/-! Proofs of the family `10_state.md` (rules R10 to R26): the invariant, `OWNER`, the slots, the reset state, and what the
control words leave in the device. -/

namespace Sys2Proof.Machine

open Sys2Proof

/-! ## The invariant as two parts -/

/-- The part of the invariant that does not speak of the event position (rules R5, R11, R13, R15, R77). -/
def State.Standing (s : State) : Prop :=
  s.params.wf = true ∧ s.cursor ≤ s.params.qcap ∧ s.slots.length = s.params.qcap ∧
    s.bus.busreq = s.owner.busreqWord s.params ∧ (s.bus.coproc = .running ∨ s.owner = .main)

/-- The part that speaks of the event position (rules R13, R14, R75, R113): `l` is the rest of an operation under way, or
nothing, for the capacity `q`, the cursor `n` and the owner `o`. -/
def Underway (q n : Nat) (o : Owner) (l : List Micro) : Prop :=
  (l = [] ∨ endsInResponse l = true) ∧ slotsInBounds q n l = true ∧ bracketed o l = true

theorem State.inv_iff (s : State) : s.Inv ↔ s.Standing ∧ Underway s.params.qcap s.cursor s.owner s.todo := by
  simp only [State.Inv, State.Standing, Underway, and_assoc]

theorem underway_nil (q n : Nat) (o : Owner) : Underway q n o [] := ⟨.inl rfl, rfl, rfl⟩

/-! ## The event position -/

/-- `CURSOR` after a line (rules R100, R102, R104). -/
def Micro.cursorAfter : Micro → Nat → Nat
  | .advanceCursor, n => n + 1
  | .emptyQueue, _ => 0
  | .write _ _, n | .writeSlot _ _, n | .acquire, n | .acquireFast, n | .release, n | .pollStatus, n | .pollGrant, n
  | .reportFree, n | .storeField _ _, n | .respond _ _, n => n

/-- `OWNER` after a line (rules R71 to R73). -/
def Micro.ownerAfter : Micro → Owner → Owner
  | .acquire, _ | .acquireFast, _ => .main
  | .release, _ => .coproc
  | .write _ _, o | .writeSlot _ _, o | .pollStatus, o | .pollGrant, o | .reportFree, o | .storeField _ _, o
  | .advanceCursor, o | .emptyQueue, o | .respond _ _, o => o

/-- What comes after a line that is not the response is under way with the cursor and the owner after that line. -/
theorem Underway.tail {q n : Nat} {o : Owner} {m : Micro} {l : List Micro} (h : Underway q n o (m :: l))
    (hm : m.answers = false) : Underway q (m.cursorAfter n) (m.ownerAfter o) l := by
  obtain ⟨hend, hslots, hbr⟩ := h
  have hrest : endsInResponse l = true := by
    rcases endsInResponse_tail (hend.resolve_left (by simp)) with ⟨_, ha⟩ | ⟨_, hl⟩
    · rw [hm] at ha; cases ha
    · exact hl
  refine ⟨.inr hrest, ?_, ?_⟩
  · cases m with
    | writeSlot | storeField | advanceCursor => simp only [slotsInBounds, Bool.and_eq_true] at hslots; exact hslots.2
    | _ => exact hslots
  · cases m with
    | release | pollGrant | write => simp only [bracketed, Bool.and_eq_true] at hbr; exact hbr.2
    | _ => exact hbr

/-- Nothing comes after the line that answers. -/
theorem Underway.eq_nil {q n : Nat} {o : Owner} {m : Micro} {l : List Micro} (h : Underway q n o (m :: l))
    (hm : m.answers = true) : l = [] := by
  rcases endsInResponse_tail (h.1.resolve_left (by simp)) with ⟨hl, _⟩ | ⟨ha, _⟩
  · exact hl
  · rw [hm] at ha; cases ha

/-- Only the arbiter's lines write `BUSREQ` (rule R75). -/
theorem Underway.port_ne_busreq {q n : Nat} {o : Owner} {port : WritePort} {v : Word} {l : List Micro}
    (h : Underway q n o (.write port v :: l)) : port ≠ .busreq := by
  rintro rfl
  cases h.2.2

/-- The loop of REQUEST runs while the main processor owns the bus (rule R77). -/
theorem Underway.owner_eq_main {q n : Nat} {o : Owner} {l : List Micro} (h : Underway q n o (.pollGrant :: l)) :
    o = .main := by
  cases o with
  | coproc => cases h.2.2
  | main => rfl

/-- `CURSOR` is raised only past a free slot (rule R13). -/
theorem Underway.cursor_lt {q n : Nat} {o : Owner} {l : List Micro} (h : Underway q n o (.advanceCursor :: l)) :
    n < q := of_decide_eq_true (Bool.and_eq_true_iff.mp h.2.1).1

/-- The one response is the whole rest of an operation. -/
theorem underway_respond (q n : Nat) (o : Owner) (ok : Bool) (v : Word) : Underway q n o [.respond ok v] :=
  ⟨.inr rfl, rfl, rfl⟩

/-- A line goes on, with `CURSOR` and `OWNER` as it leaves them, or stays where it is (a poll), or answers (rule R113). -/
theorem perform_position {m : Micro} {rest : List Micro} {s t : State} (h : perform m rest s = .next t) :
    (m.answers = false ∧ t.todo = rest ∧ t.cursor = m.cursorAfter s.cursor ∧ t.owner = m.ownerAfter s.owner) ∨
    (t.todo = m :: rest ∧ t.cursor = s.cursor ∧ t.owner = s.owner) ∨
    (m.answers = true ∧ (t.todo = [] ∨ ∃ ok v, t.todo = .respond ok v :: rest)) := by
  rcases perform_next h with ⟨_, _, rfl | ⟨_, _, rfl, _, _⟩, rfl⟩ | ⟨rfl, _, rfl⟩ | ⟨rfl, _, rfl⟩ | ⟨rfl, _, rfl⟩ |
    ⟨rfl, _, rfl⟩ | ⟨rfl, _, rfl⟩ | ⟨rfl, _, rfl⟩ | ⟨rfl, _, rfl⟩ | ⟨rfl, rfl⟩ | ⟨_, _, rfl, _, rfl⟩ | ⟨rfl, rfl⟩ |
    ⟨rfl, rfl⟩ | ⟨_, _, rfl, rfl⟩ <;> simp [Micro.cursorAfter, Micro.ownerAfter, Micro.answers]

/-- A line leaves an operation under way, or its end. -/
theorem perform_underway {m : Micro} {rest : List Micro} {s t : State} (h : perform m rest s = .next t)
    (hu : Underway s.params.qcap s.cursor s.owner (m :: rest)) :
    Underway t.params.qcap t.cursor t.owner t.todo := by
  rw [(perform_keeps h).1]
  rcases perform_position h with ⟨hm, ht, hc, ho⟩ | ⟨ht, hc, ho⟩ | ⟨hm, ht⟩
  · rw [ht, hc, ho]; exact hu.tail hm
  · rw [ht, hc, ho]; exact hu
  · rw [hu.eq_nil hm] at ht
    rcases ht with ht | ⟨ok, v, ht⟩ <;> rw [ht]
    · exact underway_nil ..
    · exact underway_respond ..

/-! ## The rest of the invariant -/

section
variable {s : State} {rest : List Micro} (h : s.Standing)
include h

theorem State.Standing.memWrite {port : WritePort} (hp : port ≠ .busreq) (v : Word) :
    ((s.memWrite port v).goOn rest).Standing := by
  cases port with
  | busreq => exact absurd rfl hp
  | _ => exact h

theorem State.Standing.setOwner (o : Owner) : ((s.setOwner o).goOn rest).Standing := by
  obtain ⟨hwf, hcur, hlen, _, _⟩ := h
  refine ⟨hwf, hcur, hlen, rfl, ?_⟩
  cases o with
  | coproc => exact .inl (if_pos rfl)
  | main => exact .inr rfl

theorem State.Standing.setCoproc (c : CoprocHalt) (ho : s.owner = .main) : (s.setCoproc c).Standing := by
  obtain ⟨hwf, hcur, hlen, hreq, _⟩ := h
  exact ⟨hwf, hcur, hlen, hreq, .inr ho⟩

theorem State.Standing.setCursor {n : Nat} (hn : n ≤ s.params.qcap) : ((s.setCursor n).goOn rest).Standing := by
  obtain ⟨hwf, _, hlen, hreq, hcop⟩ := h
  exact ⟨hwf, hn, hlen, hreq, hcop⟩

theorem State.Standing.storeField (k : Fin 8) (v : Word) : ((s.storeField k v).goOn rest).Standing := by
  obtain ⟨hwf, hcur, hlen, hreq, hcop⟩ := h
  exact ⟨hwf, hcur, by simpa using hlen, hreq, hcop⟩

theorem State.Standing.readStatus : (s.readStatus.goOn rest).Standing := h
theorem State.Standing.readBusstat : (s.readBusstat.goOn rest).Standing := h
theorem State.Standing.respond (ok : Bool) (v : Word) : (s.respond ok v).Standing := h

end

/-- A line of an operation under way keeps the rest of the invariant. -/
theorem perform_standing {m : Micro} {rest : List Micro} {s t : State} (h : perform m rest s = .next t)
    (hs : s.Standing) (hu : Underway s.params.qcap s.cursor s.owner (m :: rest)) : t.Standing := by
  rcases perform_next h with ⟨port, v, hm, rfl⟩ | ⟨_, _, rfl⟩ | ⟨_, _, rfl⟩ | ⟨_, _, rfl⟩ | ⟨_, _, rfl⟩ | ⟨_, _, rfl⟩ |
    ⟨rfl, _, rfl⟩ | ⟨_, _, rfl⟩ | ⟨_, rfl⟩ | ⟨_, _, _, _, rfl⟩ | ⟨rfl, rfl⟩ | ⟨_, rfl⟩ | ⟨_, _, _, rfl⟩
  · refine hs.memWrite ?_ v
    rcases hm with rfl | ⟨_, _, _, rfl, _⟩
    · exact hu.port_ne_busreq
    · decide
  · exact hs.setOwner _
  · exact (hs.setOwner (rest := rest) .main).setCoproc _ rfl
  · exact hs.setOwner _
  · exact hs.readStatus
  · exact hs.readStatus
  · exact (hs.readBusstat (rest := rest)).setCoproc _ hu.owner_eq_main
  · exact hs.readBusstat
  · exact hs.readBusstat
  · exact hs.storeField _ _
  · exact hs.setCursor hu.cursor_lt
  · exact hs.setCursor (Nat.zero_le _)
  · exact hs.respond _ _

/-- A line of an operation under way keeps the invariant. -/
theorem perform_inv {m : Micro} {rest : List Micro} {s t : State} (hi : s.Inv) (ht : s.todo = m :: rest)
    (h : perform m rest s = .next t) : t.Inv := by
  rw [State.inv_iff] at hi ⊢
  obtain ⟨hs, hu⟩ := hi
  rw [ht] at hu
  exact ⟨perform_standing h hs hu, perform_underway h hu⟩

/-! ## Accepting a command -/

/-- The lines of an accepted command are an operation under way, where the first of them does not fault: a PUSH_FAST on a full
queue and an unmatched RELEASE do (rules R126, R127). -/
theorem codeOf_underway {i : Instr} {s t : State} {m : Micro} {rest : List Micro} (hc : codeOf i s = m :: rest)
    (h : perform m rest { s with todo := m :: rest } = .next t) :
    Underway s.params.qcap s.cursor s.owner (m :: rest) := by
  obtain ⟨hslots, hbr⟩ := codeOf_shape i s
  rw [← hc]
  refine ⟨.inr (codeOf_endsInResponse i s), hslots.resolve_right ?_, hbr.resolve_right ?_⟩
  · rintro ⟨⟨src, dest, len, inc, tgt, rfl⟩, hfull⟩
    have hm : .storeField 0 _ = m := (List.cons.inj hc).1
    exact nomatch h.symm.trans (perform_fault.mpr (.inr ⟨rfl, ⟨_, _, hm.symm⟩, hfull⟩))
  · rintro ⟨rfl, hcoproc⟩
    have hm : .release = m := (List.cons.inj hc).1
    exact nomatch h.symm.trans (perform_fault.mpr (.inl ⟨rfl, .inr ⟨hm.symm, hcoproc⟩⟩))

/-- A step from a state that meets the invariant changes nothing, or runs one line from a state that meets it too and differs
in the event position and the coming descriptors alone. -/
theorem step_cases_of_inv {s s' : State} (hi : s.Inv) (h : step s = .next s') :
    s' = s ∨ ∃ ds m rest, State.Inv { s with hostIn := ds, todo := m :: rest } ∧
      perform m rest { s with hostIn := ds, todo := m :: rest } = .next s' := by
  rcases step_cases h with ⟨_, _, hsame⟩ | ⟨m, rest, ht, hp⟩ | ⟨d, ds, i, m, rest, ht, _, _, hc, hp⟩
  · exact .inl hsame
  · refine .inr ⟨s.hostIn, m, rest, ?_⟩
    rw [← ht]
    exact ⟨hi, hp⟩
  · exact .inr ⟨ds, m, rest, (State.inv_iff _).mpr ⟨((State.inv_iff s).mp hi).1, codeOf_underway hc hp⟩, hp⟩

/-- Settles O49: a step is one line run from a state that meets the invariant, and each line keeps the invariant. -/
theorem stepKeepsTheInvariant : Obligations.StepKeepsTheInvariant := by
  unfold Obligations.StepKeepsTheInvariant
  intro s s' hi h
  rcases step_cases_of_inv hi h with rfl | ⟨ds, m, rest, hu, hp⟩
  · exact hi
  · exact perform_inv hu rfl hp

/-! ## `OWNER` and the words written to `BUSREQ` -/

theorem wordsTo_append (port : WritePort) (es es' : List Event) :
    wordsTo port (es ++ es') = wordsTo port es ++ wordsTo port es' := by
  induction es with
  | nil => rfl
  | cons e es ih =>
    cases e with
    | read q v => exact ih
    | write q v => by_cases hq : q = port <;> simp [wordsTo, hq, ih]

@[simp] theorem wordsTo_concat_read (port : WritePort) (es : List Event) (q : ReadPort) (v : Word) :
    wordsTo port (es ++ [.read q v]) = wordsTo port es := by simp [wordsTo_append, wordsTo]

@[simp] theorem wordsTo_concat_same (port : WritePort) (es : List Event) (v : Word) :
    wordsTo port (es ++ [.write port v]) = wordsTo port es ++ [v] := by simp [wordsTo_append, wordsTo]

theorem wordsTo_concat_of_ne {port q : WritePort} (h : q ≠ port) (es : List Event) (v : Word) :
    wordsTo port (es ++ [.write q v]) = wordsTo port es := by simp [wordsTo_append, wordsTo, h]

/-- A line leaves `OWNER` alone and, if it is no plain `BUSREQ` write, the `BUSREQ` words too; or it changes `OWNER` with one
`BUSREQ` write of the new owner's word (rules R15, R76). -/
theorem perform_owner {m : Micro} {rest : List Micro} {s t : State} (h : perform m rest s = .next t) :
    (t.owner = s.owner ∧
      ((∀ v, m ≠ .write .busreq v) → wordsTo .busreq t.trace = wordsTo .busreq s.trace)) ∨
    (t.owner ≠ s.owner ∧ t.trace = s.trace ++ [.write .busreq (t.owner.busreqWord s.params)]) := by
  rcases perform_next h with ⟨port, v, hm, rfl⟩ | ⟨_, ho, rfl⟩ | ⟨_, ho, rfl⟩ | ⟨_, ho, rfl⟩ | ⟨_, _, rfl⟩ |
    ⟨_, _, rfl⟩ | ⟨_, _, rfl⟩ | ⟨_, _, rfl⟩ | ⟨_, rfl⟩ | ⟨_, _, _, _, rfl⟩ | ⟨_, rfl⟩ | ⟨_, rfl⟩ | ⟨_, _, _, rfl⟩
  · refine .inl ⟨by simp, fun hne => ?_⟩
    have hp : port ≠ .busreq := by
      rcases hm with rfl | ⟨_, _, _, rfl, _⟩
      · rintro rfl; exact hne v rfl
      · decide
    simp [wordsTo_concat_of_ne hp]
  · exact .inr ⟨by simp [ho], rfl⟩
  · exact .inr ⟨by simp [ho], rfl⟩
  · exact .inr ⟨by simp [ho], rfl⟩
  all_goals exact .inl ⟨rfl, fun _ => by simp⟩

/-- Settles O55: `step_cases` reduces a step to one line, and only an acquire or a release changes `OWNER`. -/
theorem ownerChangesOnlyWithABusRequest : Obligations.OwnerChangesOnlyWithABusRequest := by
  unfold Obligations.OwnerChangesOnlyWithABusRequest
  intro s s' h hne
  rcases step_cases h with ⟨_, _, rfl⟩ | ⟨m, rest, _, hp⟩ | ⟨d, ds, i, m, rest, _, _, _, _, hp⟩
  · exact absurd rfl hne
  · exact (perform_owner hp).elim (fun hsame => absurd hsame.1 hne) (·.2)
  · exact (perform_owner hp).elim (fun hsame => absurd hsame.1 hne) (·.2)

/-- The assert that follows `n` pairs. -/
theorem alternatingBusWords_main (p : Params) (n : Nat) :
    alternatingBusWords p n .main = alternatingBusWords p n .coproc ++ [Owner.main.busreqWord p] := by
  simp [alternatingBusWords, Owner.busreqWord]

/-- The release that completes a pair. -/
theorem alternatingBusWords_coproc_succ (p : Params) (n : Nat) :
    alternatingBusWords p (n + 1) .coproc = alternatingBusWords p n .main ++ [Owner.coproc.busreqWord p] := by
  simp [alternatingBusWords, Owner.busreqWord, List.replicate_succ']

/-- The word of a new owner continues the alternation (rule R75). -/
theorem alternatingBusWords_concat (p : Params) (n : Nat) {o o' : Owner} (h : o' ≠ o) :
    ∃ m, alternatingBusWords p n o ++ [o'.busreqWord p] = alternatingBusWords p m o' := by
  cases o with
  | coproc =>
    cases o' with
    | coproc => exact absurd rfl h
    | main => exact ⟨n, (alternatingBusWords_main p n).symm⟩
  | main =>
    cases o' with
    | coproc => exact ⟨n + 1, (alternatingBusWords_coproc_succ p n).symm⟩
    | main => exact absurd rfl h

/-- Settles O54: a line of an operation under way writes to `BUSREQ` only the word of a new owner, which continues the
alternation. -/
theorem busRequestsAlternate : Obligations.BusRequestsAlternate := by
  unfold Obligations.BusRequestsAlternate
  intro s s' n hw hi h
  rcases step_cases_of_inv hi h with rfl | ⟨ds, m, rest, hu, hp⟩
  · exact ⟨n, hw⟩
  · rw [(perform_keeps hp).1]
    rcases perform_owner hp with ⟨ho, hsame⟩ | ⟨ho, htrace⟩
    · have hm : ∀ v, m ≠ .write .busreq v := by
        rintro v rfl
        exact ((State.inv_iff _).mp hu).2.port_ne_busreq rfl
      exact ⟨n, by rw [hsame hm, ho]; exact hw⟩
    · obtain ⟨k, hk⟩ := alternatingBusWords_concat s.params n ho
      exact ⟨k, by rw [htrace, wordsTo_concat_same, ← hk]; exact congrArg (· ++ _) hw⟩

/-! ## The slots -/

/-- A slot changes only in a store, and it is the one at `CURSOR` (rule R100). -/
theorem perform_slots {m : Micro} {rest : List Micro} {s t : State} (h : perform m rest s = .next t) :
    t.slots = s.slots ∨
      ∃ k v, m = .storeField k v ∧ t.slots = s.slots.modify s.cursor (DmaCommand.setWord k v) := by
  rcases perform_next h with ⟨_, _, _, rfl⟩ | ⟨_, _, rfl⟩ | ⟨_, _, rfl⟩ | ⟨_, _, rfl⟩ | ⟨_, _, rfl⟩ | ⟨_, _, rfl⟩ |
    ⟨_, _, rfl⟩ | ⟨_, _, rfl⟩ | ⟨_, rfl⟩ | ⟨k, v, hm, _, rfl⟩ | ⟨_, rfl⟩ | ⟨_, rfl⟩ | ⟨_, _, _, rfl⟩
  · exact .inl (s.memWrite_slots _ _)
  any_goals exact .inl rfl
  exact .inr ⟨k, v, hm, rfl⟩

/-- No line writes the parameters, adds or drops a slot, or changes a queued one (rules R11, R14). -/
theorem perform_keeps_queued {m : Micro} {rest : List Micro} {s t : State} (h : perform m rest s = .next t) :
    t.params = s.params ∧ t.slots.length = s.slots.length ∧ ∀ j < s.cursor, t.slots[j]? = s.slots[j]? := by
  refine ⟨(perform_keeps h).1, ?_⟩
  rcases perform_slots h with hs | ⟨k, v, _, hs⟩
  · exact ⟨congrArg _ hs, fun j _ => by rw [hs]⟩
  · exact ⟨by simp [hs], fun j hj => by simp [hs, Nat.ne_of_gt hj]⟩

/-- Only the two pushes begin with a store (rules R100, R101). -/
theorem isPush_of_codeOf_storeField {i : Instr} {s : State} {k : Fin 8} {v : Word} {rest : List Micro}
    (h : codeOf i s = .storeField k v :: rest) :
    ∃ src dest len inc tgt, i = .pushFast src dest len inc tgt ∨ i = .push src dest len inc tgt := by
  cases i with
  | pushFast src dest len inc tgt => exact ⟨src, dest, len, inc, tgt, .inl rfl⟩
  | push src dest len inc tgt => exact ⟨src, dest, len, inc, tgt, .inr rfl⟩
  | transfer src dest len inc tgt =>
    simp only [codeOf, transferCode, segments] at h
    split at h
    · cases h
    · split at h <;> cases h
  | fill dest len val inc =>
    simp only [codeOf] at h
    split at h <;> cases h
  | _ => cases h

/-- Settles O56: a step is one line; a line changes at most the slot at `CURSOR`, and only if it is a store, with which only
the lines of a push begin. -/
theorem onlyPushesWriteSlots : Obligations.OnlyPushesWriteSlots := by
  unfold Obligations.OnlyPushesWriteSlots
  intro s s' h
  rcases step_cases h with ⟨_, _, rfl⟩ | ⟨m, rest, ht, hp⟩ | ⟨d, ds, i, m, rest, ht, hd, hi, hc, hp⟩
  · exact ⟨rfl, rfl, fun _ _ => rfl, fun hne => absurd rfl hne⟩
  · obtain ⟨hparams, hlen, hqueued⟩ := perform_keeps_queued hp
    refine ⟨hparams, hlen, hqueued, fun hne => .inl ?_⟩
    obtain ⟨k, v, rfl, _⟩ := (perform_slots hp).resolve_left hne
    exact ⟨k, v, rest, ht⟩
  · obtain ⟨hparams, hlen, hqueued⟩ := perform_keeps_queued hp
    refine ⟨hparams, hlen, hqueued, fun hne => .inr ⟨ht, ?_⟩⟩
    obtain ⟨k, v, rfl, _⟩ := (perform_slots hp).resolve_left hne
    obtain ⟨src, dest, len, inc, tgt, rfl | rfl⟩ := isPush_of_codeOf_storeField hc
    · exact ⟨d, ds, src, dest, len, inc, tgt, hd, .inl hi⟩
    · exact ⟨d, ds, src, dest, len, inc, tgt, hd, .inr hi⟩

/-! ## A wait -/

/-- A poll that is answered `v` (rule R89). -/
theorem step_pollStatus_listed {s : State} {rest : List Micro} (ht : s.todo = .pollStatus :: rest) (v : Word)
    (ws : List Word) :
    step { s with statusIn := v :: ws } = .next { s with
      todo := if dmaBusy s.params v then .pollStatus :: rest else rest
      statusIn := ws
      trace := s.trace ++ [.read .status v]
      vdp := s.vdp.statusRead s.params v } :=
  step_of_busy (s := { s with statusIn := v :: ws }) ht

/-- What a `STATUS` read leaves in the device goes by the in-flight bit of the word (rule R22). -/
theorem Vdp.statusRead_congr {p : Params} {v w : Word} (h : dmaBusy p v = dmaBusy p w) (d : Vdp) :
    d.statusRead p v = d.statusRead p w := by
  rw [Vdp.statusRead, h]
  rfl

/-- Settles O36: where the poll goes on, and what the read leaves in the device, goes by the in-flight bit alone. -/
theorem onlyTheInFlightBitIsLookedAt : Obligations.OnlyTheInFlightBitIsLookedAt := by
  unfold Obligations.OnlyTheInFlightBitIsLookedAt
  intro s rest w w' ws ht hbit
  have hbusy : dmaBusy s.params w' = dmaBusy s.params w := hbit.symm
  refine ⟨{ s with
    todo := if dmaBusy s.params w then .pollStatus :: rest else rest
    statusIn := ws
    vdp := s.vdp.statusRead s.params w }, step_pollStatus_listed ht w ws, ?_⟩
  rw [step_pollStatus_listed ht w' ws, Vdp.statusRead_congr hbusy, hbusy]

/-! ## After reset -/

theorem resetWith_inv {p : Params} (h : p.wf = true) : (State.resetWith p).Inv :=
  (State.inv_iff _).mpr ⟨⟨h, Nat.zero_le _, List.length_replicate, rfl, .inl rfl⟩, underway_nil ..⟩

/-- Settles O50: the queue is empty, the bus is the co-processor's, and no operation is under way. -/
theorem resetMeetsTheInvariant : Obligations.ResetMeetsTheInvariant := by
  unfold Obligations.ResetMeetsTheInvariant
  exact ⟨fun _ => resetWith_inv, resetWith_inv (by decide)⟩

/-- An idle sequencer with a free slot accepts every command but RELEASE while the co-processor owns the bus: nothing is
acquired twice, and no other command begins with a release (rules R126, R127). -/
theorem exec_next_of_free {i : Instr} {s : State} (hidle : s.todo = []) (ho : s.owner = .coproc)
    (hfree : s.cursor < s.params.qcap) (hi : i ≠ .release) : ∃ t, exec i s = .next t := by
  obtain ⟨m, rest, hc, he⟩ := exec_of_idle hidle i
  rw [he]
  cases hp : perform m rest { s with todo := m :: rest } with
  | next t => exact ⟨t, rfl⟩
  | refused r => exact absurd hp perform_not_refused
  | fault f =>
    exfalso
    rcases perform_fault.mp hp with ⟨_, ⟨_, hmain⟩ | ⟨rfl, _⟩⟩ | ⟨_, _, hfull⟩
    · exact nomatch ho.symm.trans hmain
    · have hbr := (codeOf_shape i s).2.resolve_right fun h => hi h.1
      rw [hc, ho] at hbr
      cases hbr
    · exact absurd hfree (Nat.not_lt.mpr hfull)

/-- An idle sequencer faults on a RELEASE while the co-processor owns the bus (rule R126). -/
theorem exec_release_fault {s : State} (hidle : s.todo = []) (ho : s.owner = .coproc) :
    exec .release s = .fault .busProtocol := by
  rw [exec_eq_start]
  exact (start_of_idle hidle _ _).trans (perform_fault.mpr (.inl ⟨rfl, .inr ⟨rfl, ho⟩⟩))

theorem Params.qcap_pos {p : Params} (h : p.wf = true) : 0 < p.qcap := by
  simp only [Params.wf, Params.qcapOk, Bool.and_eq_true, decide_eq_true_eq] at h
  omega

/-- Settles O51: at reset a slot is free and the co-processor owns the bus. -/
theorem resetStateIsIdleAndEmpty : Obligations.ResetStateIsIdleAndEmpty := by
  unfold Obligations.ResetStateIsIdleAndEmpty
  intro p hp
  exact ⟨rfl, rfl, rfl, rfl, rfl, fun _ => exec_next_of_free rfl rfl (Params.qcap_pos hp), exec_release_fault rfl rfl⟩

/-! ## The constraints of rule R5 that the device's words rest on -/

section
variable {p : Params} (h : p.wf = true)
include h

theorem Params.sels_nodup : p.sels.Nodup := by
  simp only [Params.wf, Params.selsDistinct, Bool.and_eq_true, decide_eq_true_eq] at h
  tauto

theorem Params.regwSelLsb_eq : p.regwSelLsb = 8 ∨ p.regwSelLsb = 9 := by
  simp only [Params.wf, Params.selLsbOk, Bool.and_eq_true, Bool.or_eq_true, beq_iff_eq] at h
  tauto

theorem Params.isRegWrite_fillSelect : isRegWrite p.fillSelect = true := by
  simp only [Params.wf, Params.fillSelectOk, Bool.and_eq_true] at h
  tauto

theorem Params.baseOk_baseDma (tgt : Target) : baseOk (baseDma p tgt) = true := by
  simp only [Params.wf, PerTarget.ok, Bool.and_eq_true] at h
  cases tgt <;> simp only [baseDma] <;> tauto

theorem Params.fillBase_eq : ∃ tgt, p.fillBase = baseDma p tgt := by
  simp only [Params.wf, Params.fillBaseOk, Bool.and_eq_true, Bool.or_eq_true, beq_iff_eq] at h
  obtain ⟨⟨⟨⟨_, (h | h) | h⟩, _⟩, _⟩, _⟩ := h
  · exact ⟨.vram, h⟩
  · exact ⟨.cram, h⟩
  · exact ⟨.vsram, h⟩

end

/-! ## Register-write words (rule R55) -/

/-- The fields of a register-write word with the select code at bit 8. -/
theorem regw_of_lsb_eq_8 {p : Params} (h : p.regwSelLsb = 8) (sel : BitVec 5) (v : Byte) :
    regw p sel v = 0b10#2 ++ (0#1 ++ sel ++ v) := by
  rw [regw, h, show 0x8000#16 = BitVec.twoPow 16 15 from rfl, show 0b10#2 = BitVec.twoPow 2 1 from rfl]
  ext i hi
  simp [BitVec.getElem_twoPow]
  grind

/-- The fields of a register-write word with the select code at bit 9. -/
theorem regw_of_lsb_eq_9 {p : Params} (h : p.regwSelLsb = 9) (sel : BitVec 5) (v : Byte) :
    regw p sel v = 0b10#2 ++ (sel ++ 0#1 ++ v) := by
  rw [regw, h, show 0x8000#16 = BitVec.twoPow 16 15 from rfl, show 0b10#2 = BitVec.twoPow 2 1 from rfl]
  ext i hi
  simp [BitVec.getElem_twoPow]
  grind

section
variable {p : Params} (h : p.wf = true) (sel : BitVec 5) (v : Byte)
include h

theorem isRegWrite_regw : isRegWrite (regw p sel v) = true := by
  rw [isRegWrite, beq_iff_eq]
  rcases Params.regwSelLsb_eq h with h8 | h9
  · rw [regw_of_lsb_eq_8 h8]; exact BitVec.extractLsb'_append_eq_left
  · rw [regw_of_lsb_eq_9 h9]; exact BitVec.extractLsb'_append_eq_left

theorem selectOf_regw : selectOf p (regw p sel v) = sel := by
  rcases Params.regwSelLsb_eq h with h8 | h9
  · rw [regw_of_lsb_eq_8 h8, selectOf, h8]; ext i hi; simp; grind
  · rw [regw_of_lsb_eq_9 h9, selectOf, h9]; ext i hi; simp; grind

theorem loByte_regw : loByte (regw p sel v) = v := by
  rcases Params.regwSelLsb_eq h with h8 | h9
  · rw [regw_of_lsb_eq_8 h8, loByte]; ext i hi; simp; grind
  · rw [regw_of_lsb_eq_9 h9, loByte]; ext i hi; simp; grind

end

/-! ## Trigger commands (rule R57) -/

theorem hiHalf_append_loHalf (t : BitVec 32) : hiHalf t ++ loHalf t = t := by
  ext i hi
  simp [hiHalf, loHalf]
  grind

/-- `TRIG` leaves the top bits of the base. -/
theorem hiHalf_trig_top (base : BitVec 32) (dest : BitVec 16) :
    (hiHalf (trig base dest)).extractLsb' 14 2 = base.extractLsb' 30 2 := by
  ext i hi
  simp [hiHalf, trig]
  grind

/-- The bits that `commandBase` keeps. -/
theorem commandBase_mask_getElem : ∀ i (h : i < 32), (0xC000FFFC#32)[i] = decide (2 ≤ i ∧ i < 16 ∨ 30 ≤ i) := by
  decide

/-- Taking the destination out of `TRIG` gives the base back. -/
theorem commandBase_trig {base : BitVec 32} (h : baseOk base = true) (dest : BitVec 16) :
    commandBase (trig base dest) = base := by
  simp only [baseOk, Bool.and_eq_true, beq_iff_eq] at h
  obtain ⟨hmid, hlow⟩ := h
  ext i hi
  have hm := congrArg (·.getLsbD (i - 16)) hmid
  have hl := congrArg (·.getLsbD i) hlow
  simp [BitVec.getLsbD_extractLsb'] at hm hl
  simp [commandBase, trig, commandBase_mask_getElem i hi]
  grind

/-- The trigger command of a DMA-triggering base starts a copy or fill. -/
theorem startsDma_trig {p : Params} (h : p.wf = true) (tgt : Target) (dest : BitVec 16) :
    startsDma p (trig (baseDma p tgt) dest) = true := by
  rw [startsDma, commandBase_trig (Params.baseOk_baseDma h tgt)]
  cases tgt <;> simp [baseDma]

/-- The more significant half of a trigger command is no register-write word, where the base is none. -/
theorem isRegWrite_hiHalf_trig {base : BitVec 32} (h : base.extractLsb' 30 2 ≠ 0b10#2) (dest : BitVec 16) :
    isRegWrite (hiHalf (trig base dest)) = false := by
  rw [isRegWrite, hiHalf_trig_top]
  exact beq_false_of_ne h

/-! ## What a register-write word leaves in the device (rules R21, R133 (a)) -/

/-- The six select codes differ: each from those that `Vdp.latch` tests before it. -/
theorem Params.sels_distinct {p : Params} (h : p.wf = true) :
    p.selLenl ≠ p.selAutoinc ∧
    (p.selLenh ≠ p.selAutoinc ∧ p.selLenh ≠ p.selLenl) ∧
    (p.selSrcl ≠ p.selAutoinc ∧ p.selSrcl ≠ p.selLenl ∧ p.selSrcl ≠ p.selLenh) ∧
    (p.selSrcm ≠ p.selAutoinc ∧ p.selSrcm ≠ p.selLenl ∧ p.selSrcm ≠ p.selLenh ∧ p.selSrcm ≠ p.selSrcl) ∧
    (p.selSrch ≠ p.selAutoinc ∧ p.selSrch ≠ p.selLenl ∧ p.selSrch ≠ p.selLenh ∧ p.selSrch ≠ p.selSrcl ∧
      p.selSrch ≠ p.selSrcm) := by
  have hs := Params.sels_nodup h
  simp only [Params.sels, List.nodup_cons, List.mem_cons, List.not_mem_nil, not_or, or_false] at hs
  grind

/-- What any register-write word leaves beside the register it selects. -/
def Vdp.regWritten (p : Params) (w : Word) (d : Vdp) : Vdp :=
  { d with fillSource := fillSourceAfter p w d.fillSource, armed := false }

section
variable {p : Params} (h : p.wf = true) {d : Vdp} (hd : d.half = none) (v : Byte)
include h hd

theorem Vdp.control_regw (sel : BitVec 5) :
    d.control p (regw p sel v) = { d.latch p (regw p sel v) with armed := false } :=
  Vdp.control_regWrite hd (isRegWrite_regw h sel v)

theorem Vdp.control_autoinc :
    d.control p (regw p p.selAutoinc v) = { d.regWritten p (regw p p.selAutoinc v) with autoinc := v } := by
  simp [Vdp.control_regw h hd, Vdp.latch, Vdp.regWritten, selectOf_regw h, loByte_regw h]

theorem Vdp.control_lenl :
    d.control p (regw p p.selLenl v) = { d.regWritten p (regw p p.selLenl v) with lenl := v } := by
  simp [Vdp.control_regw h hd, Vdp.latch, Vdp.regWritten, selectOf_regw h, loByte_regw h, Params.sels_distinct h]

theorem Vdp.control_lenh :
    d.control p (regw p p.selLenh v) = { d.regWritten p (regw p p.selLenh v) with lenh := v } := by
  simp [Vdp.control_regw h hd, Vdp.latch, Vdp.regWritten, selectOf_regw h, loByte_regw h, Params.sels_distinct h]

theorem Vdp.control_srcl :
    d.control p (regw p p.selSrcl v) = { d.regWritten p (regw p p.selSrcl v) with srcl := v } := by
  simp [Vdp.control_regw h hd, Vdp.latch, Vdp.regWritten, selectOf_regw h, loByte_regw h, Params.sels_distinct h]

theorem Vdp.control_srcm :
    d.control p (regw p p.selSrcm v) = { d.regWritten p (regw p p.selSrcm v) with srcm := v } := by
  simp [Vdp.control_regw h hd, Vdp.latch, Vdp.regWritten, selectOf_regw h, loByte_regw h, Params.sels_distinct h]

theorem Vdp.control_srch :
    d.control p (regw p p.selSrch v) = { d.regWritten p (regw p p.selSrch v) with srch := v } := by
  simp [Vdp.control_regw h hd, Vdp.latch, Vdp.regWritten, selectOf_regw h, loByte_regw h, Params.sels_distinct h]

/-- `FILL_SELECT` selects the fill source and, where it names the source-high register, sets that too (rule R61). -/
theorem Vdp.control_fillSelect
    (hf : ∀ sel ∈ [p.selAutoinc, p.selLenl, p.selLenh, p.selSrcl, p.selSrcm], selectOf p p.fillSelect ≠ sel) :
    d.control p p.fillSelect = { d with
      srch := if selectOf p p.fillSelect = p.selSrch then loByte p.fillSelect else d.srch
      fillSource := true
      armed := false } := by
  simp only [List.mem_cons, List.not_mem_nil, or_false, forall_eq_or_imp, forall_eq] at hf
  rw [Vdp.control_regWrite hd (Params.isRegWrite_fillSelect h)]
  by_cases hh : selectOf p p.fillSelect = p.selSrch
  · simp [Vdp.latch, fillSourceAfter, hh, Params.sels_distinct h]
  · simp [Vdp.latch, fillSourceAfter, hf, hh]

end

/-- The two halves of a trigger command start its copy or fill (rules R37, R133 (b)). -/
theorem Vdp.control_trigger {p : Params} {tgt : Target} (h : p.wf = true)
    (hb : (baseDma p tgt).extractLsb' 30 2 ≠ 0b10#2) (dest : BitVec 16) {d : Vdp} (hd : d.half = none)
    (ha : d.armed = false) :
    (d.control p (hiHalf (trig (baseDma p tgt) dest))).control p (loHalf (trig (baseDma p tgt) dest)) =
      Vdp.start (trig (baseDma p tgt) dest) { d with command := some (trig (baseDma p tgt) dest) } := by
  rw [Vdp.control_first hd (isRegWrite_hiHalf_trig hb dest) (Vdp.repeats_of_not_armed ha), Vdp.control_second rfl,
    Vdp.complete, hiHalf_append_loHalf, if_pos (startsDma_trig h tgt dest), ← hd, ← ha]

/-! ## The words of a transfer -/

theorem hiByte_append_loByte (len : BitVec 16) : hiByte len ++ loByte len = len :=
  BitVec.extractLsb'_append_extractLsb'

/-- The eight words of a transfer set the registers and start its operation (rules R21, R59). -/
theorem Vdp.foldl_build_words {p : Params} {tgt : Target} (h : p.wf = true)
    (hb : (baseDma p tgt).extractLsb' 30 2 ≠ 0b10#2) (src : BitVec 32) (dest len : BitVec 16) (inc : Byte) {d : Vdp}
    (hd : d.half = none) :
    ∃ f, (selectOf p p.fillSelect = p.selSrch → f = ((build p src dest len inc tgt).srch == p.fillSelect)) ∧
      (build p src dest len inc tgt).words.foldl (fun d w => d.control p w) d =
        Vdp.start (trig (baseDma p tgt) dest) { d with
          autoinc := inc
          lenl := loByte len
          lenh := hiByte len
          srcl := (src >>> 1).extractLsb' 0 8
          srcm := (src >>> 1).extractLsb' 8 8
          srch := (src >>> 1).extractLsb' 16 8 &&& p.srchMask
          fillSource := f
          armed := false
          command := some (trig (baseDma p tgt) dest) } := by
  simp only [DmaCommand.words, fieldIndices, DmaCommand.word, build, List.map_cons, List.map_nil, List.foldl_cons,
    List.foldl_nil]
  rw [Vdp.control_autoinc h hd, Vdp.control_lenl h, Vdp.control_lenh h, Vdp.control_srcl h, Vdp.control_srcm h,
    Vdp.control_srch h, Vdp.control_trigger h hb]
  · refine ⟨_, fun hf => ?_, rfl⟩
    exact if_pos ((selectOf_regw h _ _).trans hf.symm)
  case ha => rfl
  all_goals exact hd

/-- The byte of the word address that a source register takes (rule R32). -/
theorem extractLsb'_shiftRight_one (src : BitVec 32) (i : Nat) :
    (src >>> 1).extractLsb' i 8 = src.extractLsb' (1 + i) 8 := by
  ext j hj
  simp [Nat.add_assoc]

theorem windowOf_eq_iff (a n : Nat) : windowOf a = windowOf (a + n) ↔ a % 0x20000 + n < 0x20000 := by
  unfold windowOf
  omega

/-- Whether the erratum corrupts a transfer depends on its place in the window and its length (rule R39). -/
theorem Segment.corrupted_congr {g g' : Segment} (hs : g.src.toNat % 0x20000 = g'.src.toNat % 0x20000)
    (hl : g.len = g'.len) : g.corrupted = g'.corrupted := by
  unfold Segment.corrupted Segment.inOneWindow
  rw [hl]
  by_cases hz : g'.len = 0#16
  · simp [hz]
  · have hpos : g'.len.toNat ≠ 0 := fun h0 => hz (BitVec.eq_of_toNat_eq h0)
    rw [Nat.add_sub_assoc (by omega), Nat.add_sub_assoc (by omega)]
    congr 2
    rw [Bool.eq_iff_iff, beq_iff_eq, beq_iff_eq, windowOf_eq_iff, windowOf_eq_iff, hs]

/-- The word address in the source registers has the place in the window that an even `SRC` has (rules R32, R38). -/
theorem wordAddress_mod_window {src : BitVec 32} (h : src.getLsbD 0 = false) (b : Byte) :
    (((b ++ src.extractLsb' 9 8 ++ src.extractLsb' 1 8) ++ 0#1).setWidth 32).toNat % 0x20000 =
      src.toNat % 0x20000 := by
  have hbits : (((b ++ src.extractLsb' 9 8 ++ src.extractLsb' 1 8) ++ 0#1).setWidth 32).setWidth 17 =
      src.setWidth 17 := by
    ext i hi
    simp
    grind
  simpa only [BitVec.toNat_setWidth] using congrArg BitVec.toNat hbits

/-- Settles O12: `Vdp.foldl_build_words` gives the whole device; the erratum goes by the place in the window, which the mask on
the source-high register does not touch. -/
theorem transferWordsProgramTheDevice : Obligations.TransferWordsProgramTheDevice := by
  unfold Obligations.TransferWordsProgramTheDevice
  intro p d src dest len inc tgt h hd hb c d'
  obtain ⟨f, hf, hw⟩ := Vdp.foldl_build_words h hb src dest len inc hd
  simp only [extractLsb'_shiftRight_one] at hw
  have hd' : d' = _ := hw
  rw [hd']
  refine ⟨rfl, rfl, rfl, rfl, rfl, rfl, hf, hd, rfl, Vdp.starts_start .., rfl, _, rfl, ?_, ?_⟩
  · rw [Vdp.operation, hiByte_append_loByte]
    rfl
  · intro hcopy heven
    have hf : f = false := hcopy
    subst hf
    simp only [DmaOperation.straddles, Vdp.operation, Bool.false_eq_true, if_false]
    exact Segment.corrupted_congr (wordAddress_mod_window heven _) (hiByte_append_loByte len)

/-! ## The words of a fill -/

/-- The seed word is the byte twice (rule R61). -/
theorem seedWord_eq_append (v : Byte) : seedWord v = v ++ v := by
  ext i hi
  simp [seedWord]
  grind

theorem loByte_toNat (w : BitVec 16) : (loByte w).toNat = w.toNat % 256 := by
  simp [loByte]

theorem hiByte_toNat (w : BitVec 16) : (hiByte w).toNat = w.toNat / 256 := by
  simp [hiByte, Nat.shiftRight_eq_div_pow]
  omega

/-- The six control words of a FILL set the registers and start its operation (rules R21, R61). -/
theorem Vdp.foldl_fill_words {p : Params} (h : p.wf = true) (hb : p.fillBase.extractLsb' 30 2 ≠ 0b10#2)
    (hf : ∀ sel ∈ [p.selAutoinc, p.selLenl, p.selLenh, p.selSrcl, p.selSrcm], selectOf p p.fillSelect ≠ sel)
    (dest n : BitVec 16) (inc : Byte) {d : Vdp} (hd : d.half = none) :
    [regw p p.selAutoinc inc, regw p p.selLenl (loByte n), regw p p.selLenh (hiByte n), p.fillSelect,
        hiHalf (trig p.fillBase dest), loHalf (trig p.fillBase dest)].foldl (fun d w => d.control p w) d =
      Vdp.start (trig p.fillBase dest) { d with
        autoinc := inc
        lenl := loByte n
        lenh := hiByte n
        srch := if selectOf p p.fillSelect = p.selSrch then loByte p.fillSelect else d.srch
        fillSource := true
        armed := false
        command := some (trig p.fillBase dest) } := by
  obtain ⟨tgt, htgt⟩ := Params.fillBase_eq h
  rw [htgt] at hb ⊢
  simp only [List.foldl_cons, List.foldl_nil]
  rw [Vdp.control_autoinc h hd, Vdp.control_lenl h, Vdp.control_lenh h, Vdp.control_fillSelect h _ hf,
    Vdp.control_trigger h hb]
  · rfl
  case ha => rfl
  all_goals exact hd

/-- The seed goes to the fill that has just been started (rule R133 (e)). -/
theorem Vdp.operations_data_start {d : Vdp} (hfill : d.fillSource = true) (t : BitVec 32) (v : Word) :
    ((d.start t).data v).operations = d.overtaken ++ [{ d.operation t with movement := .fill (some v) }] := by
  simp [Vdp.data, Vdp.start, Vdp.operation, DmaOperation.takeSeed, hfill]

/-- A fill writes one byte more than its programmed length (rule R133 (d)). -/
theorem DmaOperation.bytes_fill {o : DmaOperation} {seed : Option Word} (hm : o.movement = .fill seed)
    (hl : o.length.toNat ≠ 0) : o.bytes = some (o.length.toNat + 1) := by
  have hz : o.length ≠ 0#16 := fun h0 => hl (congrArg BitVec.toNat h0)
  simp only [DmaOperation.bytes, if_neg hz, hm]
  exact congrArg some (by omega)

/-- Settles O13: `Vdp.foldl_fill_words` gives the whole device before the seed, which goes to the fill just started. -/
theorem fillWordsProgramTheDevice : Obligations.FillWordsProgramTheDevice := by
  unfold Obligations.FillWordsProgramTheDevice
  intro p d dest len val inc h hd hb hlen hf n t32 ctrl d'
  have hn : n.toNat = len.toNat - 1 := Nat.mod_eq_of_lt (by omega)
  have hd' : d' = _ := congrArg (Vdp.data (seedWord val)) (Vdp.foldl_fill_words h hb hf dest n inc hd)
  rw [seedWord_eq_append] at hd'
  rw [hd']
  refine ⟨rfl, ?_, ?_, rfl, rfl, rfl, rfl, hd, rfl, ?_, rfl, rfl, _, Vdp.operations_data_start rfl _ _, ?_, ?_⟩
  · exact (loByte_toNat n).trans (by rw [hn])
  · exact (hiByte_toNat n).trans (by rw [hn])
  · rw [Vdp.starts_data, Vdp.starts_start]
    rfl
  · rw [Vdp.operation, hiByte_append_loByte]
  · rw [DmaOperation.bytes_fill rfl]
    · simp only [Vdp.operation, hiByte_append_loByte, hn]
      exact congrArg some (by omega)
    · simp only [Vdp.operation, hiByte_append_loByte, hn]
      omega

end Sys2Proof.Machine

/-! Proofs of the family `20_memory.md` (rules R30 to R39): the bits of `SRC`, the bracket round the trigger-low, the
windows, and a trigger-low written twice. -/

namespace Sys2Proof.Machine

open Sys2Proof

/-! ## The bits of `SRC` that a command carries (rules R32, R59) -/

/-- A source byte lies in bits 24:1 of `SRC`. -/
theorem sourceByte_eq (src : BitVec 32) {i : Nat} (hi : i ≤ 16) :
    (src >>> 1).extractLsb' i 8 = (src.extractLsb' 1 24).extractLsb' i 8 := by
  ext j hj
  have hj24 : i + j < 24 := by omega
  simp [hj24]

/-- Settles O11: `SRC` enters `BUILD` only through its three source bytes. -/
theorem sourceBitsOutsideTheWordAddressAreDropped : Obligations.SourceBitsOutsideTheWordAddressAreDropped := by
  unfold Obligations.SourceBitsOutsideTheWordAddressAreDropped
  intro p src src' dest len inc tgt h
  have hbyte : ∀ i ≤ 16, (src >>> 1).extractLsb' i 8 = (src' >>> 1).extractLsb' i 8 := fun i hi => by
    rw [sourceByte_eq src hi, sourceByte_eq src' hi, h]
  simp only [build, hbyte 0 (by omega), hbyte 8 (by omega), hbyte 16 (by omega)]

/-! ## The lines of `transfer_fast` before its bracket (rule R85) -/

/-- Plain control-port writes, one a step. -/
theorem steps_ctrlWrites {rest : List Micro} (vs : List Word) (s : State)
    (ht : s.todo = vs.map (.write .ctrl) ++ rest) :
    steps vs.length s = .next { s with
      todo := rest
      trace := s.trace ++ vs.map (.write .ctrl)
      vdp := vs.foldl (fun d v => d.control s.params v) s.vdp } := by
  induction vs generalizing s with
  | nil => simp at ht; simp [← ht]
  | cons v vs ih =>
    rw [List.length_cons, steps_line (t := (s.memWrite .ctrl v).goOn (vs.map (.write .ctrl) ++ rest)) ht rfl]
    refine (ih _ rfl).trans ?_
    simp [State.memWrite, State.emit, State.goOn]

/-- The lines of `transfer_fast` are a wait, seven control words, and the bracket round the eighth. -/
theorem transferFastCode_eq (c : DmaCommand) :
    transferFastCode c =
      .pollStatus :: ((c.words.take 7).map (.write .ctrl) ++ [.acquireFast, .write .ctrl c.trigl, .release]) := rfl

/-- The wait and the seven words lead to the bracket, whoever owns the bus. -/
theorem steps_transferFast_to_bracket {rest : List Micro} {busy ws : List Word} {w : Word} (c : DmaCommand) (s : State)
    (ht : s.todo = transferFastCode c ++ rest) (hi : s.statusIn = busy ++ w :: ws)
    (hb : ∀ b ∈ busy, dmaBusy s.params b = true) (hw : dmaBusy s.params w = false) :
    steps (busy.length + 8) s = .next { s with
      todo := .acquireFast :: .write .ctrl c.trigl :: .release :: rest
      statusIn := ws
      trace := s.trace ++ (busy ++ [w]).map (.read .status) ++ (c.words.take 7).map (.write .ctrl)
      vdp := (c.words.take 7).foldl (fun d v => d.control s.params v)
        ((busy ++ [w]).foldl (fun d w => d.statusRead s.params w) s.vdp) } := by
  rw [transferFastCode_eq, List.cons_append] at ht
  rw [show busy.length + 8 = busy.length + 1 + 7 from rfl, steps_add (steps_wait s ht hi hb hw) 7]
  exact steps_ctrlWrites (c.words.take 7) _ (List.append_assoc ..)

/-- `request_fast()` while the co-processor owns the bus (rules R72, R77). -/
theorem steps_acquireFast {s : State} {rest : List Micro} (ht : s.todo = .acquireFast :: rest)
    (ho : s.owner = .coproc) : steps 1 s = .next (((s.setOwner .main).setCoproc .silenced).goOn rest) :=
  steps_line ht (by simp [perform, acquire, ho]) 0

/-- Settles O28: the wait and the seven words leave `OWNER` alone, and the acquire that comes next opens the bracket. -/
theorem triggerLowIsWrittenInsideTheBracket : Obligations.TriggerLowIsWrittenInsideTheBracket := by
  unfold Obligations.TriggerLowIsWrittenInsideTheBracket
  intro s src dest len inc tgt busy w rest hidle ho hi hb hw c
  have hbracket :=
    steps_transferFast_to_bracket c { s with todo := transferFastCode c ++ [.respond true 0#16] } rfl hi hb hw
  have hacquire := (steps_add hbracket 1).trans (steps_acquireFast rfl ho)
  obtain ⟨t, hexec, hrun⟩ := start_and_run hidle hacquire
  exact ⟨t, _, hexec, hrun, rfl, rfl, rfl⟩

/-! ## The windows (rules R39, R82 to R87) -/

/-- An even source is followed by `REMAIN` whole words up to the next boundary (rule R83). -/
theorem mod_window_add_remain {src : BitVec 32} (h : src.getLsbD 0 = false) :
    src.toNat % 0x20000 + 2 * remain src = 0x20000 := by
  have heven : src.toNat % 2 = 0 := by simpa [BitVec.getLsbD] using h
  have hmask : (src &&& 0x1FFFF#32).toNat = src.toNat % 0x20000 := Nat.and_two_pow_sub_one_eq_mod src.toNat 17
  rw [remain, hmask, Nat.shiftRight_eq_div_pow]
  omega

/-- A transfer that ends by the next boundary is not corrupted (rule R39). -/
theorem Segment.not_corrupted {g : Segment} (h : g.src.toNat % 0x20000 + 2 * g.len.toNat ≤ 0x20000) :
    g.corrupted = false := by
  rw [Segment.corrupted, Segment.inOneWindow, Bool.not_eq_false', Bool.or_eq_true, beq_iff_eq, beq_iff_eq]
  by_cases hz : g.len = 0#16
  · exact .inl hz
  · have hpos : g.len.toNat ≠ 0 := fun h0 => hz (BitVec.eq_of_toNat_eq h0)
    refine .inr ?_
    rw [Nat.add_sub_assoc (by omega), windowOf_eq_iff]
    omega

section
variable {src : BitVec 32} (h : src.getLsbD 0 = false)
include h

/-- The tail of a split starts at a boundary, also where its address wraps (rule R86). -/
theorem tailSegment_src_mod_window (dest len : BitVec 16) : (tailSegment src dest len).src.toNat % 0x20000 = 0 := by
  have hr := mod_window_add_remain h
  simp only [tailSegment, BitVec.toNat_add, BitVec.toNat_ofNat]
  omega

theorem tailSegment_not_corrupted (dest len : BitVec 16) : (tailSegment src dest len).corrupted = false := by
  apply Segment.not_corrupted
  rw [tailSegment_src_mod_window h]
  omega

theorem headSegment_not_corrupted (dest : BitVec 16) : (headSegment src dest).corrupted = false := by
  apply Segment.not_corrupted
  have hr := mod_window_add_remain h
  simp only [headSegment, BitVec.toNat_ofNat]
  omega

theorem whole_not_corrupted {len : BitVec 16} (hc : crosses src len = false) (dest : BitVec 16) :
    Segment.corrupted ⟨src, dest, len⟩ = false := by
  apply Segment.not_corrupted
  have hr := mod_window_add_remain h
  have hlen := of_decide_eq_false hc
  dsimp only
  omega

/-- No segment of an even source is corrupted: that is what the split is for (rule R87). -/
theorem segments_not_corrupted (dest len : BitVec 16) : ∀ g ∈ segments src dest len, g.corrupted = false := by
  rw [segments]
  split
  · simp [tailSegment_not_corrupted h, headSegment_not_corrupted h]
  · simp [whole_not_corrupted h (Bool.eq_false_iff.mpr ‹_›)]

end

/-- What the hazards of a source exclude (rule R153). -/
theorem even_of_sourceHazards {src : BitVec 32} (h : sourceHazards src = []) : src.getLsbD 0 = false := by
  simp only [sourceHazards, List.append_eq_nil_iff, ite_eq_right_iff, reduceCtorEq, imp_false] at h
  exact Bool.eq_false_iff.mpr h.1

/-- A hazard-free TRANSFER or PUSH has an even source. -/
theorem even_of_splitHazards {src : BitVec 32} {len : BitVec 16} {inc : Byte} (h : splitHazards src len inc = []) :
    src.getLsbD 0 = false :=
  even_of_sourceHazards (List.append_eq_nil_iff.mp h).2

/-- A hazard-free TRANSFER_FAST or PUSH_FAST has an even source and does not cross (rules R151, R153). -/
theorem even_and_whole_of_uncheckedHazards {src : BitVec 32} {len : BitVec 16} {inc : Byte}
    (h : uncheckedHazards src len inc = []) : src.getLsbD 0 = false ∧ crosses src len = false := by
  obtain ⟨hpath, hsrc⟩ := List.append_eq_nil_iff.mp h
  refine ⟨even_of_sourceHazards hsrc, ?_⟩
  by_contra hc
  simp [hc] at hpath

section
variable {s : State} {src : BitVec 32} {dest len : BitVec 16} {inc : Byte} {tgt : Target}

theorem splitHazards_of_safe (h : safeCommand (.transfer src dest len inc tgt) s = true ∨
    safeCommand (.push src dest len inc tgt) s = true) : splitHazards src len inc = [] := by
  rcases h with h | h
  · exact (List.append_eq_nil_iff.mp (eq_of_beq h)).2
  · exact eq_of_beq h

theorem uncheckedHazards_of_safe (h : safeCommand (.transferFast src dest len inc tgt) s = true ∨
    safeCommand (.pushFast src dest len inc tgt) s = true) : uncheckedHazards src len inc = [] := by
  rcases h with h | h <;> exact (List.append_eq_nil_iff.mp (eq_of_beq h)).2

end

/-- Settles O59: the hazards exclude an odd source, and on the fast paths a crossing too; the segments of an even source
stay in their windows. -/
theorem safeTransfersStayInTheirWindows : Obligations.SafeTransfersStayInTheirWindows := by
  unfold Obligations.SafeTransfersStayInTheirWindows
  intro s src dest len inc tgt
  constructor
  · intro hsafe
    exact segments_not_corrupted (even_of_splitHazards (splitHazards_of_safe hsafe)) dest len
  · intro hsafe
    obtain ⟨heven, hc⟩ := even_and_whole_of_uncheckedHazards (uncheckedHazards_of_safe hsafe)
    exact ⟨by simp [segments, hc], whole_not_corrupted heven hc dest⟩

/-! ## A trigger-low written once more (rule R37) -/

/-- A copy or fill started twice over: each of the two may be corrupted by the other (rule R133 (c)). -/
theorem Vdp.start_start (t : BitVec 32) (d : Vdp) :
    (d.start t).start t = { d.start t with
      operations := d.overtaken ++ [(d.operation t).disturbed, (d.operation t).disturbed] } := by
  have hfirst : (d.start t).overtaken = d.overtaken ++ [(d.operation t).disturbed] := Vdp.overtaken_of_inFlight rfl rfl
  rw [Vdp.start, hfirst, List.append_assoc]
  rfl

/-- The second half of a command that has just started a copy or fill. -/
theorem Vdp.repeats_of_command {hi lo : Word} {d : Vdp} (ha : d.armed = true) (hc : d.command = some (hi ++ lo)) :
    d.repeats lo = some (hi ++ lo) := by
  simpa only [loHalf_append] using Vdp.repeats_of_armed ha hc

section
variable {p : Params} {hi lo : Word} (hs : startsDma p (hi ++ lo) = true) (d : Vdp)
include hs

theorem Vdp.complete_eq_start :
    d.complete p hi lo = Vdp.start (hi ++ lo) { d with half := none, armed := false, command := some (hi ++ lo) } := by
  simp [Vdp.complete, hs]

/-- The trigger-low that has completed a DMA-triggering command starts it again (rule R37). -/
theorem Vdp.control_complete (hr : isRegWrite lo = false) :
    (d.complete p hi lo).control p lo = (d.complete p hi lo).start (hi ++ lo) := by
  rw [Vdp.complete_eq_start hs]
  exact Vdp.control_repeat rfl hr (Vdp.repeats_of_command rfl rfl)

end

/-- Settles O14: the first word completes the command and leaves it armed, so that the second starts it once more. -/
theorem repeatedTriggerLowStartsASecondTransfer : Obligations.RepeatedTriggerLowStartsASecondTransfer := by
  unfold Obligations.RepeatedTriggerLowStartsASecondTransfer
  intro s hi lo hhalf hs hr s1 s2
  have h1 : s1.vdp = s.vdp.complete s.params hi lo := Vdp.control_second hhalf
  have h2 : s2.vdp = s1.vdp.start (hi ++ lo) := by
    rw [h1, ← Vdp.control_complete hs _ hr, ← h1]
    rfl
  refine ⟨h1.trans (Vdp.complete_starts hs), ?_, by simp [s1, s2]⟩
  rw [h2, h1, Vdp.complete_eq_start hs]
  exact Vdp.start_start ..

end Sys2Proof.Machine

/-! Proofs of the family `30_encoding.md` (rules R50 to R67): descriptors, the opcode table, responses, the device words, and
the textual form. -/

namespace Sys2Proof

/-! ## Descriptors and their formats (rules R51, R52) -/

section
variable (op : BitVec 8) (src : BitVec 32) (dest len : BitVec 16)

theorem decodeN_packN (i : Instr) : decodeN (packN op) i = .ok i := if_pos (packN_low op)

theorem decodeT_packT (inc : Byte) (tgt : Target)
    (mk : BitVec 32 → BitVec 16 → BitVec 16 → Byte → Target → Instr) :
    decodeT (packT op src dest len inc tgt) mk = .ok (mk src dest len inc tgt) := by
  simp [decodeT, packT]

theorem decodeF_pack (val inc : Byte) (mk : BitVec 16 → BitVec 16 → Byte → Byte → Instr) :
    decodeF (pack op 0#8 inc val len dest 0#32) mk = .ok (mk dest len val inc) := by
  simp [decodeF]

end

/-- An instruction is read by the format it is written in, which its operation code chooses (rules R52, R54). -/
theorem decode_encode (i : Instr) : decode (encode i) = .ok i := by
  cases i with
  | transferFast | transfer | pushFast | push =>
    simp only [decode, encode, packT, pack_op, Instr.opcode]
    exact decodeT_packT ..
  | fill =>
    simp only [decode, encode, pack_op, Instr.opcode]
    exact decodeF_pack ..
  | request | requestFast | release | isFree | wait | flush | size | clear => exact decodeN_packN ..

theorem decode_of_encode {d : Descriptor} {i : Instr} (h : encode i = d) : decode d = .ok i := h ▸ decode_encode i

/-- Settles O1: what each format's reader makes of its own fields gives the instruction back. -/
theorem decodeOfEncodeIsTheInstruction : Obligations.DecodeOfEncodeIsTheInstruction := by
  unfold Obligations.DecodeOfEncodeIsTheInstruction
  exact decode_encode

/-- What format N accepts (rule R52). -/
theorem decodeN_eq_ok {d : Descriptor} {i j : Instr} :
    decodeN d i = .ok j ↔ d.extractLsb' 0 88 = 0#88 ∧ i = j := by
  unfold decodeN
  split <;> simp [*]

/-- What format T accepts (rules R52, R58). -/
theorem decodeT_eq_ok {d : Descriptor} {mk : BitVec 32 → BitVec 16 → BitVec 16 → Byte → Target → Instr} {j : Instr} :
    decodeT d mk = .ok j ↔
      d.val = 0#8 ∧ ∃ t, targetOf d.tgt = some t ∧ mk d.src d.dest d.len d.inc t = j := by
  unfold decodeT
  split
  · cases ht : targetOf d.tgt <;> simp [*]
  · simp [*]

/-- What format F accepts (rule R52). -/
theorem decodeF_eq_ok {d : Descriptor} {mk : BitVec 16 → BitVec 16 → Byte → Byte → Instr} {j : Instr} :
    decodeF d mk = .ok j ↔ (d.tgt = 0#8 ∧ d.src = 0#32) ∧ mk d.dest d.len d.val d.inc = j := by
  unfold decodeF
  split <;> simp [*]

/-- The operation code chooses the format, and with it how the rest of the descriptor is read and written (rules R52, R54). -/
theorem decode_cases (d : Descriptor) :
    (∃ i, formatOf d.op = some .n ∧ decode d = decodeN d i ∧ encode i = packN d.op) ∨
    (∃ mk, formatOf d.op = some .t ∧ decode d = decodeT d mk ∧
      ∀ src dest len inc tgt, encode (mk src dest len inc tgt) = packT d.op src dest len inc tgt) ∨
    (∃ mk, formatOf d.op = some .f ∧ decode d = decodeF d mk ∧
      ∀ dest len val inc, encode (mk dest len val inc) = pack d.op 0#8 inc val len dest 0#32) ∨
    (formatOf d.op = none ∧ decode d = .rejected .reservedOp) := by
  unfold decode
  split <;> rename_i hop
  case h_1 | h_2 | h_3 | h_4 | h_8 | h_11 | h_12 | h_13 => rw [hop]; exact .inl ⟨_, rfl, rfl, rfl⟩
  case h_5 | h_6 | h_9 | h_10 => rw [hop]; exact .inr (.inl ⟨_, rfl, rfl, fun _ _ _ _ _ => rfl⟩)
  case h_7 => rw [hop]; exact .inr (.inr (.inl ⟨_, rfl, rfl, fun _ _ _ _ => rfl⟩))
  case h_14 => exact .inr (.inr (.inr ⟨by simp_all [formatOf], rfl⟩))

/-- A format T descriptor is its four operands and its target. -/
theorem packT_of_fields {d : Descriptor} {t : Target} (hval : d.val = 0#8) (ht : targetOf d.tgt = some t) :
    packT d.op d.src d.dest d.len d.inc t = d := by
  rw [packT, code_of_targetOf ht, ← hval, pack_fields]

/-- A format F descriptor is its four operands. -/
theorem formatF_of_fields {d : Descriptor} (htgt : d.tgt = 0#8) (hsrc : d.src = 0#32) :
    pack d.op 0#8 d.inc d.val d.len d.dest 0#32 = d := by
  rw [← htgt, ← hsrc, pack_fields]

theorem encode_of_decode {d : Descriptor} {i : Instr} (h : decode d = .ok i) : encode i = d := by
  rcases decode_cases d with ⟨i, _, hd, henc⟩ | ⟨mk, _, hd, henc⟩ | ⟨mk, _, hd, henc⟩ | ⟨_, hd⟩ <;> rw [hd] at h
  · obtain ⟨hlow, rfl⟩ := decodeN_eq_ok.mp h
    rw [henc, packN_of_low hlow]
  · obtain ⟨hval, t, ht, rfl⟩ := decodeT_eq_ok.mp h
    rw [henc, packT_of_fields hval ht]
  · obtain ⟨⟨htgt, hsrc⟩, rfl⟩ := decodeF_eq_ok.mp h
    rw [henc, formatF_of_fields htgt hsrc]
  · cases h

/-- Settles O2: each format accepts only a descriptor whose other fields are zero, so its operands are the whole of it. -/
theorem encodeOfDecodeIsTheDescriptor : Obligations.EncodeOfDecodeIsTheDescriptor := by
  unfold Obligations.EncodeOfDecodeIsTheDescriptor
  exact fun _ _ => encode_of_decode

/-! ## Legal descriptors (rule R64) -/

/-- The selectors that name a target are the ones not reserved (rule R58). -/
theorem targetOf_isSome_iff (sel : BitVec 8) : (∃ t, targetOf sel = some t) ↔ sel.toNat ≤ 2 := by
  constructor
  · rintro ⟨t, ht⟩
    rw [← code_of_targetOf ht]
    cases t <;> decide
  · intro h
    have hsel : sel = 0#8 ∨ sel = 1#8 ∨ sel = 2#8 := by bv_omega
    rcases hsel with rfl | rfl | rfl
    · exact ⟨.vram, rfl⟩
    · exact ⟨.cram, rfl⟩
    · exact ⟨.vsram, rfl⟩

/-- The top six bits of `TGT`, which format T requires to be zero, are zero for every target. -/
theorem top_tgt_of_le {d : Descriptor} (h : d.tgt.toNat ≤ 2) : d.extractLsb' 82 6 = 0#6 := by
  have htop : d.extractLsb' 82 6 = d.tgt.extractLsb' 2 6 := by
    ext i hi
    simp [Descriptor.tgt]
    grind
  obtain ⟨t, ht⟩ := (targetOf_isSome_iff _).mpr h
  rw [htop, ← code_of_targetOf ht]
  cases t <;> rfl

theorem opBits_eq_op (d : Descriptor) : d.opBits = d.op := rfl

section
variable {d : Descriptor}

theorem legal_iff_of_formatN (h : formatOf d.op = some .n) : d.legal = true ↔ d.extractLsb' 0 88 = 0#88 := by
  simp [Descriptor.legal, Descriptor.reservedOp, Descriptor.unusedFieldNotZero, Descriptor.reservedTarget, opBits_eq_op, h]

theorem legal_iff_of_formatT (h : formatOf d.op = some .t) :
    d.legal = true ↔ d.val = 0#8 ∧ d.tgt.toNat ≤ 2 := by
  have hlegal : d.legal = true ↔ (d.val = 0#8 ∧ d.extractLsb' 82 6 = 0#6) ∧ d.tgt.toNat ≤ 2 := by
    simp [Descriptor.legal, Descriptor.reservedOp, Descriptor.unusedFieldNotZero, Descriptor.reservedTarget, opBits_eq_op, h,
      Descriptor.val, Descriptor.tgt]
  rw [hlegal, and_right_comm, and_iff_left_of_imp fun ⟨_, hle⟩ => top_tgt_of_le hle]

theorem legal_iff_of_formatF (h : formatOf d.op = some .f) : d.legal = true ↔ d.tgt = 0#8 ∧ d.src = 0#32 := by
  simp [Descriptor.legal, Descriptor.reservedOp, Descriptor.unusedFieldNotZero, Descriptor.reservedTarget, opBits_eq_op, h,
    Descriptor.tgt, Descriptor.src]

theorem not_legal_of_reserved (h : formatOf d.op = none) : d.legal = false := by
  simp [Descriptor.legal, Descriptor.reservedOp, opBits_eq_op, h]

end

theorem decode_accepts_iff_legal (d : Descriptor) : (∃ i, decode d = .ok i) ↔ d.legal = true := by
  rcases decode_cases d with ⟨i, hf, hd, _⟩ | ⟨mk, hf, hd, _⟩ | ⟨mk, hf, hd, _⟩ | ⟨hf, hd⟩ <;> rw [hd]
  · simp [decodeN_eq_ok, legal_iff_of_formatN hf]
  · simp [decodeT_eq_ok, legal_iff_of_formatT hf, targetOf_isSome_iff]
  · simp [decodeF_eq_ok, legal_iff_of_formatF hf]
  · simp [not_legal_of_reserved hf]

/-- Settles O3: what each format accepts is what rule R64 calls legal of that format. -/
theorem decoderAcceptsExactlyTheLegalDescriptors : Obligations.DecoderAcceptsExactlyTheLegalDescriptors := by
  unfold Obligations.DecoderAcceptsExactlyTheLegalDescriptors
  exact decode_accepts_iff_legal

/-- Settles O5: the legal ones are the descriptors of their instructions, bit by bit; the others run through the decoder. -/
theorem writtenOutDescriptorsDecode : Obligations.WrittenOutDescriptorsDecode := by
  unfold Obligations.WrittenOutDescriptorsDecode
  exact ⟨decode_of_encode rfl, decode_of_encode rfl, decode_of_encode rfl, decode_of_encode rfl, decode_of_encode rfl,
    by decide, by decide, by decide⟩

/-! ## The opcode table (rule R54) -/

/-- The fields of two descriptors are combined one by one. -/
theorem pack_and (op tgt inc val op' tgt' inc' val' : BitVec 8) (len dest len' dest' : BitVec 16)
    (src src' : BitVec 32) :
    pack op tgt inc val len dest src &&& pack op' tgt' inc' val' len' dest' src' =
      pack (op &&& op') (tgt &&& tgt') (inc &&& inc') (val &&& val') (len &&& len') (dest &&& dest') (src &&& src') := by
  simp only [pack, ← BitVec.and_append]

/-- The row mask of format T: `OP`, the top six bits of `TGT`, and `VAL`. -/
theorem packT_and_mask (op : BitVec 8) (src : BitVec 32) (dest len : BitVec 16) (inc : Byte) (tgt : Target) :
    packT op src dest len inc tgt &&& 0xFFFC00FF0000000000000000#96 = packN op := by
  have hmask : 0xFFFC00FF0000000000000000#96 = pack 0xFF#8 0xFC#8 0#8 0xFF#8 0#16 0#16 0#32 := rfl
  have hop : op &&& 0xFF#8 = op := BitVec.and_allOnes
  have htgt : tgt.code &&& 0xFC#8 = 0#8 := by cases tgt <;> rfl
  simp [hmask, packT, packN, pack_and, hop, htgt]

/-- The row mask of format F: `OP`, `TGT` and `SRC`. -/
theorem formatF_and_mask (op : BitVec 8) (dest len : BitVec 16) (val inc : Byte) :
    pack op 0#8 inc val len dest 0#32 &&& 0xFFFF000000000000FFFFFFFF#96 = packN op := by
  have hmask : 0xFFFF000000000000FFFFFFFF#96 = pack 0xFF#8 0xFF#8 0#8 0#8 0#16 0#16 0xFFFFFFFF#32 := rfl
  have hop : op &&& 0xFF#8 = op := BitVec.and_allOnes
  simp [hmask, packN, pack_and, hop]

/-- A format T row is one of that mask and of the format N descriptor of its operation code. -/
theorem OpRow.fits_packT {r : OpRow} {op : BitVec 8} (hm : r.mask = 0xFFFC00FF0000000000000000#96)
    (hp : r.pattern = packN op) (src : BitVec 32) (dest len : BitVec 16) (inc : Byte) (tgt : Target) :
    r.fits (packT op src dest len inc tgt) = true := by
  rw [OpRow.fits, beq_iff_eq, hm, hp, packT_and_mask]

/-- A format F row likewise. -/
theorem OpRow.fits_formatF {r : OpRow} {op : BitVec 8} (hm : r.mask = 0xFFFF000000000000FFFFFFFF#96)
    (hp : r.pattern = packN op) (dest len : BitVec 16) (val inc : Byte) :
    r.fits (pack op 0#8 inc val len dest 0#32) = true := by
  rw [OpRow.fits, beq_iff_eq, hm, hp, formatF_and_mask]

/-- Every row fixes the whole operation code. -/
theorem opcodeRows_mask_op : ∀ r ∈ opcodeRows, r.mask.op = BitVec.allOnes 8 := by decide

theorem op_and (d e : Descriptor) : Descriptor.op (d &&& e) = d.op &&& e.op := BitVec.extractLsb'_and

theorem OpRow.op_of_fits {r : OpRow} (hr : r ∈ opcodeRows) {d : Descriptor} (h : r.fits d = true) :
    r.pattern.op = d.op := by
  rw [OpRow.fits, beq_iff_eq] at h
  rw [← h, op_and, opcodeRows_mask_op r hr, BitVec.and_allOnes]

/-- No descriptor fits two rows: their operation codes differ. -/
theorem row_eq_of_fits {r t : OpRow} (hr : r ∈ opcodeRows) (ht : t ∈ opcodeRows) {d : Descriptor}
    (hrd : r.fits d = true) (htd : t.fits d = true) : r = t := by
  have hnodup : (opcodeRows.map (·.pattern.op)).Nodup := by decide
  exact List.inj_on_of_nodup_map hnodup hr ht ((OpRow.op_of_fits hr hrd).trans (OpRow.op_of_fits ht htd).symm)

/-- No two rows have one mnemonic. -/
theorem row_eq_of_mnemonic {r t : OpRow} (hr : r ∈ opcodeRows) (ht : t ∈ opcodeRows)
    (h : r.mnemonic = t.mnemonic) : r = t := by
  have hnodup : (opcodeRows.map OpRow.mnemonic).Nodup := by decide
  exact List.inj_on_of_nodup_map hnodup hr ht h

end Sys2Proof

namespace Sys2Proof.Machine

open Sys2Proof

/-! ## The rows and the mnemonics (rule R54) -/

/-- The row an instruction's mnemonic names is one its descriptor fits. -/
theorem exists_row_fits (i : Instr) : ∃ r ∈ opcodeRows, r.mnemonic = mnemonic i ∧ r.fits (encode i) = true := by
  cases i with
  | request => exact ⟨opcodeRows[0], List.getElem_mem _, rfl, rfl⟩
  | requestFast => exact ⟨opcodeRows[1], List.getElem_mem _, rfl, rfl⟩
  | release => exact ⟨opcodeRows[2], List.getElem_mem _, rfl, rfl⟩
  | isFree => exact ⟨opcodeRows[3], List.getElem_mem _, rfl, rfl⟩
  | transferFast => exact ⟨opcodeRows[4], List.getElem_mem _, rfl, OpRow.fits_packT (op := 0x10#8) rfl rfl ..⟩
  | transfer => exact ⟨opcodeRows[5], List.getElem_mem _, rfl, OpRow.fits_packT (op := 0x11#8) rfl rfl ..⟩
  | fill => exact ⟨opcodeRows[6], List.getElem_mem _, rfl, OpRow.fits_formatF (op := 0x12#8) rfl rfl ..⟩
  | wait => exact ⟨opcodeRows[7], List.getElem_mem _, rfl, rfl⟩
  | pushFast => exact ⟨opcodeRows[8], List.getElem_mem _, rfl, OpRow.fits_packT (op := 0x20#8) rfl rfl ..⟩
  | push => exact ⟨opcodeRows[9], List.getElem_mem _, rfl, OpRow.fits_packT (op := 0x21#8) rfl rfl ..⟩
  | flush => exact ⟨opcodeRows[10], List.getElem_mem _, rfl, rfl⟩
  | size => exact ⟨opcodeRows[11], List.getElem_mem _, rfl, rfl⟩
  | clear => exact ⟨opcodeRows[12], List.getElem_mem _, rfl, rfl⟩

/-- Settles O6: a descriptor fits the row of its mnemonic; no descriptor fits two rows, and no two rows have one mnemonic. -/
theorem eachInstructionFitsItsOpcodeRowAlone : Obligations.EachInstructionFitsItsOpcodeRowAlone := by
  unfold Obligations.EachInstructionFitsItsOpcodeRowAlone
  intro i r hr
  obtain ⟨own, hown, hname, hfits⟩ := exists_row_fits i
  constructor
  · intro h
    rw [row_eq_of_fits hr hown h hfits, hname]
  · intro h
    rw [row_eq_of_mnemonic hr hown (h.trans hname.symm), hfits]

/-! ## Register-write words (rule R55) -/

/-- Of the parameters, a register-write word depends on the position of the select code alone. -/
theorem regw_congr {p q : Params} (h : q.regwSelLsb = p.regwSelLsb) : regw q = regw p := by
  funext sel v
  rw [regw, regw, h]

/-- Both positions of the select code occur in parameters that meet rule R5. -/
theorem exists_wf_of_selLsbOk {p : Params} (h : p.selLsbOk = true) :
    ∃ q : Params, q.wf = true ∧ q.regwSelLsb = p.regwSelLsb := by
  rw [Params.selLsbOk, Bool.or_eq_true, beq_iff_eq, beq_iff_eq] at h
  refine ⟨{ Params.default with regwSelLsb := p.regwSelLsb }, ?_, rfl⟩
  rcases h with h8 | h9
  · rw [h8]; decide
  · rw [h9]; decide

/-- The bit that belongs neither to the select code nor to the value. -/
theorem regw_unused_bit {p : Params} (h : p.wf = true) (sel : BitVec 5) (v : Byte) :
    (regw p sel v).getLsbD (if p.regwSelLsb = 8 then 13 else 8) = false := by
  rcases Params.regwSelLsb_eq h with h8 | h9
  · rw [regw_of_lsb_eq_8 h8, h8]; simp; grind
  · rw [regw_of_lsb_eq_9 h9, h9]; simp; grind

/-- Settles O9: the lemmas on `regw` give the fields for parameters that meet rule R5, and the word depends on the position of
the select code alone. -/
theorem registerWriteWordLayout : Obligations.RegisterWriteWordLayout := by
  unfold Obligations.RegisterWriteWordLayout
  intro p sel v h
  obtain ⟨q, hq, hlsb⟩ := exists_wf_of_selLsbOk h
  rw [← regw_congr hlsb, ← hlsb]
  exact ⟨eq_of_beq (isRegWrite_regw hq sel v), selectOf_regw hq sel v, loByte_regw hq sel v, regw_unused_bit hq sel v⟩

/-! ## Trigger commands (rule R57) -/

/-- The four fields of a trigger command, the base's and the destination's by turns. -/
theorem trig_eq_append {base : BitVec 32} (h : baseOk base = true) (dest : BitVec 16) :
    trig base dest =
      base.extractLsb' 30 2 ++ (dest.extractLsb' 0 14 ++ (base.extractLsb' 2 14 ++ dest.extractLsb' 14 2)) := by
  simp only [baseOk, Bool.and_eq_true, beq_iff_eq] at h
  obtain ⟨hmid, hlow⟩ := h
  ext i hi
  have hm := congrArg (·.getLsbD (i - 16)) hmid
  have hl := congrArg (·.getLsbD i) hlow
  simp [BitVec.getLsbD_extractLsb'] at hm hl
  simp [trig]
  grind

/-- Settles O10: `TRIG` is its four fields side by side. -/
theorem triggerCommandLayout : Obligations.TriggerCommandLayout := by
  unfold Obligations.TriggerCommandLayout
  intro base dest h
  rw [trig_eq_append h]
  refine ⟨?_, ?_, BitVec.extractLsb'_append_eq_left, ?_⟩
  all_goals ext i hi; simp; grind

/-! ## The response of an operation (rules R53, R113) -/

/-- Settles O7: the seventeen bits are the two fields side by side. -/
theorem responseIsOkAboveValue : Obligations.ResponseIsOkAboveValue := by
  unfold Obligations.ResponseIsOkAboveValue
  intro r
  exact ⟨by rw [Response.bits, BitVec.getLsbD_append]; simp, BitVec.extractLsb'_append_eq_right⟩

/-- A response leaves the sequencer idle; any other line gives none and goes on, to itself, to what comes after it, or to the
response it has turned into. -/
theorem perform_responses {m : Micro} {rest : List Micro} {s t : State} (h : perform m rest s = .next t) :
    (t.todo = [] ∧ ∃ r, t.responses = s.responses ++ [r]) ∨
    (t.responses = s.responses ∧ ((m.answers = false ∧ t.todo = rest) ∨ t.todo ≠ [])) := by
  rcases perform_next h with ⟨_, _, rfl | ⟨_, _, rfl, _, _⟩, rfl⟩ | ⟨rfl, _, rfl⟩ | ⟨rfl, _, rfl⟩ | ⟨rfl, _, rfl⟩ |
    ⟨rfl, _, rfl⟩ | ⟨rfl, _, rfl⟩ | ⟨rfl, _, rfl⟩ | ⟨rfl, _, rfl⟩ | ⟨rfl, rfl⟩ | ⟨_, _, rfl, _, rfl⟩ | ⟨rfl, rfl⟩ |
    ⟨rfl, rfl⟩ | ⟨_, _, rfl, rfl⟩ <;> simp [Micro.answers]

/-- A line of an operation that ends in its response: while lines remain after it no response has been given, and when none
does one has. -/
theorem perform_responds_at_end {m : Micro} {rest : List Micro} {s t : State} (h : perform m rest s = .next t)
    (he : endsInResponse (m :: rest) = true) :
    (t.todo ≠ [] → t.responses = s.responses) ∧ (t.todo = [] → ∃ r, t.responses = s.responses ++ [r]) := by
  rcases perform_responses h with ⟨hidle, hresp⟩ | ⟨hsame, ⟨hm, ht⟩ | hbusy⟩
  · exact ⟨fun hbusy => absurd hidle hbusy, fun _ => hresp⟩
  · have hrest : rest ≠ [] := by
      rintro rfl
      exact nomatch hm.symm.trans he
    exact ⟨fun _ => hsame, fun hidle => absurd (ht.symm.trans hidle) hrest⟩
  · exact ⟨fun _ => hsame, fun hidle => absurd hidle hbusy⟩

/-- Settles O53: a step runs one line of an operation that ends in its response, or changes nothing. -/
theorem aResponseEndsTheOperation : Obligations.AResponseEndsTheOperation := by
  unfold Obligations.AResponseEndsTheOperation
  intro s s' hi h
  rcases step_cases h with ⟨hidle, hnone, rfl⟩ | ⟨m, rest, ht, hp⟩ | ⟨d, ds, i, m, rest, _, _, _, hc, hp⟩
  · exact ⟨fun _ => rfl, fun _ hsome => absurd hsome (by simp [hidle, hnone])⟩
  · obtain ⟨_, hunder⟩ := (State.inv_iff s).mp hi
    have hends : endsInResponse (m :: rest) = true := ht ▸ hunder.1.resolve_left (by simp [ht])
    obtain ⟨hon, hend⟩ := perform_responds_at_end hp hends
    exact ⟨hon, fun hidle _ => hend hidle⟩
  · obtain ⟨hon, hend⟩ := perform_responds_at_end hp (hc ▸ codeOf_endsInResponse i _)
    exact ⟨hon, fun hidle _ => hend hidle⟩

/-! ## The operands of a command as text (rule R66) -/

theorem digitValue_digitChar : ∀ n < 16, digitValue 16 (digitChar n) = some n := by decide

theorem readDigits_append (base acc : Nat) (t u : List Char) :
    readDigits base acc (t ++ u) = (readDigits base acc t).bind fun n => readDigits base n u := by
  induction t generalizing acc with
  | nil => rfl
  | cons c t ih =>
    simp only [List.cons_append, readDigits]
    cases digitValue base c with
    | none => rfl
    | some v => exact ih _

theorem readDigits_hexDigits (k n acc : Nat) :
    readDigits 16 acc (hexDigits k n) = some (16 ^ k * acc + n % 16 ^ k) := by
  induction k generalizing n with
  | zero => simp [hexDigits, readDigits, Nat.mod_one]
  | succ k ih =>
    have hd := digitValue_digitChar (n % 16) (Nat.mod_lt _ (by decide))
    simp only [hexDigits, readDigits_append, ih, Option.bind_some, readDigits, hd]
    rw [Nat.pow_succ', Nat.mod_mul]
    congr 1
    ring

theorem readNat_hexText (k n : Nat) : readNat (hexText (k + 1) n) = some (n % 16 ^ (k + 1)) := by
  obtain ⟨c, cs, hdigits⟩ := List.exists_cons_of_ne_nil (show hexDigits (k + 1) n ≠ [] by simp [hexDigits])
  have hread := readDigits_hexDigits (k + 1) n 0
  rw [hdigits, Nat.mul_zero, Nat.zero_add] at hread
  rw [hexText, hdigits]
  exact hread

/-- A field is read back from as many hexadecimal digits as fill it. -/
theorem readField_hexText {w : Nat} (k : Nat) (hw : 2 ^ w = 16 ^ (k + 1)) (x : BitVec w) :
    readField w (hexText (k + 1) x.toNat) = some x := by
  have hx : x.toNat % 16 ^ (k + 1) = x.toNat := by rw [← hw, Nat.mod_eq_of_lt x.isLt]
  simp [readField, readNat_hexText, hx, x.isLt]

theorem readTarget_symbol (t : Target) : readTarget (Target.symbol t).toList = some t := by
  cases t <;> decide

/-! ## Cutting a text where the printer joined it (rule R66; log entry 22) -/

/-- No space and no comma: the text of one operand. -/
def Plain (t : List Char) : Prop := ' ' ∉ t ∧ ',' ∉ t

theorem plain_append {t u : List Char} (ht : Plain t) (hu : Plain u) : Plain (t ++ u) := by
  simp_all [Plain]

theorem plain_digitChar : ∀ n < 16, digitChar n ≠ ' ' ∧ digitChar n ≠ ',' := by decide

theorem plain_hexDigits (k n : Nat) : Plain (hexDigits k n) := by
  induction k generalizing n with
  | zero => simp [Plain, hexDigits]
  | succ k ih =>
    obtain ⟨hspace, hcomma⟩ := plain_digitChar (n % 16) (Nat.mod_lt _ (by decide))
    exact plain_append (ih _) (by simp [Plain, hspace.symm, hcomma.symm])

theorem plain_hexText (k n : Nat) : Plain (hexText k n) :=
  plain_append (t := ['0', 'x']) (by simp [Plain]) (plain_hexDigits k n)

theorem plain_symbol (t : Target) : Plain (Target.symbol t).toList := by
  cases t <;> simp [Plain, Target.symbol]

theorem cutFirstSpace_of_not_mem {t : List Char} (h : ' ' ∉ t) : cutFirstSpace t = (t, []) := by
  induction t with
  | nil => rfl
  | cons c t ih =>
    rw [List.mem_cons, not_or] at h
    obtain ⟨hc, ht⟩ := h
    simp [cutFirstSpace, Ne.symm hc, ih ht]

theorem cutFirstSpace_append {t : List Char} (h : ' ' ∉ t) (u : List Char) :
    cutFirstSpace (t ++ ' ' :: u) = (t, u) := by
  induction t with
  | nil => rfl
  | cons c t ih =>
    rw [List.mem_cons, not_or] at h
    obtain ⟨hc, ht⟩ := h
    simp [cutFirstSpace, Ne.symm hc, ih ht]

theorem cutAt_of_not_mem {c : Char} {t : List Char} (h : c ∉ t) : cutAt c t = [t] := by
  induction t with
  | nil => rfl
  | cons x t ih =>
    rw [List.mem_cons, not_or] at h
    obtain ⟨hx, ht⟩ := h
    simp [cutAt, Ne.symm hx, ih ht]

theorem cutAt_append {c : Char} {t : List Char} (h : c ∉ t) (u : List Char) :
    cutAt c (t ++ c :: u) = t :: cutAt c u := by
  induction t with
  | nil => simp [cutAt]
  | cons x t ih =>
    rw [List.mem_cons, not_or] at h
    obtain ⟨hx, ht⟩ := h
    simp [cutAt, Ne.symm hx, ih ht]

theorem filter_of_plain {t : List Char} (h : Plain t) : t.filter (· != ' ') = t := by
  rw [List.filter_eq_self]
  intro c hc
  exact bne_iff_ne.mpr fun he => h.1 (he ▸ hc)

/-- The commas give the operands back. -/
theorem cutAt_joinOperands {ops : List (List Char)} (hne : ops ≠ []) (h : ∀ t ∈ ops, Plain t) :
    cutAt ',' ((joinOperands ops).filter (· != ' ')) = ops := by
  induction ops with
  | nil => exact absurd rfl hne
  | cons t ops ih =>
    have ht : Plain t := h t (by simp)
    cases ops with
    | nil => rw [joinOperands, filter_of_plain ht, cutAt_of_not_mem ht.2]
    | cons u ops =>
      have hrest := ih (by simp) fun v hv => h v (by simp_all)
      have hjoin : joinOperands (t :: u :: ops) = t ++ ',' :: ' ' :: joinOperands (u :: ops) := rfl
      rw [hjoin, List.filter_append, filter_of_plain ht]
      simp [cutAt_append ht.2, hrest]

/-- A list of one empty operand prints as no operands do; any other is read back. -/
theorem operandsOf_joinOperands {ops : List (List Char)} (hne : ops ≠ [[]]) (h : ∀ t ∈ ops, Plain t) :
    operandsOf (joinOperands ops) = ops := by
  by_cases hnil : ops = []
  · subst hnil; rfl
  · have hcut := cutAt_joinOperands hnil h
    unfold operandsOf
    split
    · rename_i he
      rw [he] at hcut
      exact absurd hcut.symm hne
    · exact hcut

theorem operandTexts_plain (i : Instr) : ∀ t ∈ operandTexts i, Plain t := by
  cases i with
  | transferFast | transfer | pushFast | push => simp [operandTexts, plain_hexText, plain_symbol]
  | fill => simp [operandTexts, plain_hexText]
  | _ => simp [operandTexts]

theorem operandTexts_ne (i : Instr) : operandTexts i ≠ [[]] := by
  cases i <;> simp [operandTexts]

theorem mnemonic_no_space (i : Instr) : ' ' ∉ (mnemonic i).toList := by
  cases i <;> simp [mnemonic]

theorem cutFirstSpace_print (i : Instr) :
    cutFirstSpace (print i) = ((mnemonic i).toList, joinOperands (operandTexts i)) := by
  unfold print
  split
  · rename_i h
    rw [h]
    exact cutFirstSpace_of_not_mem (mnemonic_no_space i)
  · exact cutFirstSpace_append (mnemonic_no_space i) _

/-! ## A whole command as text (rule R66) -/

theorem readTransfer_texts (mk : BitVec 32 → BitVec 16 → BitVec 16 → Byte → Target → Instr) (src : BitVec 32)
    (dest len : BitVec 16) (inc : Byte) (tgt : Target) :
    readTransfer mk [hexText 8 src.toNat, hexText 4 dest.toNat, hexText 4 len.toNat, hexText 2 inc.toNat,
      (Target.symbol tgt).toList] = some (mk src dest len inc tgt) := by
  simp [readTransfer, readField_hexText, readTarget_symbol]

theorem readFill_texts (dest len : BitVec 16) (val inc : Byte) :
    readFill [hexText 4 dest.toNat, hexText 4 len.toNat, hexText 2 val.toNat, hexText 2 inc.toNat] =
      some (.fill dest len val inc) := by
  simp [readFill, readField_hexText]

theorem parse_print (i : Instr) : parse (print i) = some i := by
  simp only [parse, cutFirstSpace_print, operandsOf_joinOperands (operandTexts_ne i) (operandTexts_plain i)]
  cases i with
  | transferFast | transfer | pushFast | push => simp [mnemonic, operandTexts, readTransfer_texts]
  | fill => simp [mnemonic, operandTexts, readFill_texts]
  | request | requestFast | release | isFree | wait | flush | size | clear => simp [mnemonic, operandTexts, readNullary]

/-- Settles O8: the mnemonic and the operands are cut apart where the printer joined them, and each operand is read back. -/
theorem parseOfPrintIsTheInstruction : Obligations.ParseOfPrintIsTheInstruction := by
  unfold Obligations.ParseOfPrintIsTheInstruction
  exact parse_print

end Sys2Proof.Machine

/-! Proofs of the family `40_bus_arbiter.md` (rules R70 to R78): the commands that fault or are refused when they are accepted,
the four commands of the arbiter, and a transfer issued inside a bracket. -/

namespace Sys2Proof.Machine

open Sys2Proof

/-! ## Faults and refusals at acceptance (rules R75, R126, R127; U3) -/

/-- Settles O46: every instruction starts its lines, and a busy sequencer starts none. -/
theorem noCommandIsAcceptedWhileBusy : Obligations.NoCommandIsAcceptedWhileBusy := by
  unfold Obligations.NoCommandIsAcceptedWhileBusy
  intro i s hbusy
  rw [exec_eq_start]
  exact start_of_busy hbusy _

/-- The fault a line meets in the state `s` (rules R75, R100). -/
def Micro.faultIn (m : Micro) (s : State) : Option Fault :=
  match m with
  | .acquire | .acquireFast => if s.owner = .main then some .busProtocol else none
  | .release => if s.owner = .coproc then some .busProtocol else none
  | .storeField _ _ => if s.params.qcap ≤ s.cursor then some .queueOverflow else none
  | .write _ _ | .writeSlot _ _ | .pollStatus | .pollGrant | .reportFree | .advanceCursor | .emptyQueue
  | .respond _ _ => none

theorem perform_fault_iff_faultIn {m : Micro} {rest : List Micro} {s : State} {f : Fault} :
    perform m rest s = .fault f ↔ m.faultIn s = some f := by
  rw [perform_fault]
  cases m with
  | acquire | acquireFast | release | storeField => simp [Micro.faultIn, and_comm, eq_comm]
  | _ => simp [Micro.faultIn]

/-- A transfer or a push begins with the tail of a crossing request, else with the whole of it (rules R86, R101). -/
theorem segments_eq_cons (src : BitVec 32) (dest len : BitVec 16) :
    ∃ more, segments src dest len =
      (if crosses src len then tailSegment src dest len else ⟨src, dest, len⟩) :: more := by
  unfold segments
  split
  · exact ⟨_, rfl⟩
  · exact ⟨_, rfl⟩

/-- The fault of a command is that of its first line. A PUSH that passes its checks begins with a store, and a slot is free
for it. -/
theorem faultAtOnce_eq_faultIn {i : Instr} {s : State} {m : Micro} {rest : List Micro} (hc : codeOf i s = m :: rest) :
    faultAtOnce i s = m.faultIn s := by
  cases i with
  | transfer src dest len inc tgt =>
    obtain ⟨more, hseg⟩ := segments_eq_cons src dest len
    simp only [codeOf, transferCode, hseg] at hc
    split at hc <;> cases hc <;> rfl
  | fill dest len val inc =>
    simp only [codeOf] at hc
    split at hc <;> cases hc <;> rfl
  | push src dest len inc tgt =>
    obtain ⟨more, hseg⟩ := segments_eq_cons src dest len
    simp only [codeOf, pushCode, hseg] at hc
    split at hc
    · cases hc; rfl
    · rename_i hpass
      have hroom := push_has_room (dest := dest) (Bool.eq_false_iff.mpr hpass)
      rw [hseg, List.length_cons] at hroom
      cases hc
      exact (if_neg (by omega)).symm
  | _ => cases hc; rfl

theorem exec_fault_iff {i : Instr} {s : State} (hidle : s.todo = []) {f : Fault} :
    exec i s = .fault f ↔ faultAtOnce i s = some f := by
  obtain ⟨m, rest, hc, he⟩ := exec_of_idle hidle i
  rw [he, perform_fault_iff_faultIn, faultAtOnce_eq_faultIn hc]
  rfl

/-- Settles O47: accepting a command runs its first line, which faults as the table says, never refuses, and else gives a next
state. -/
theorem commandsFaultExactlyWhereTheSpecSays : Obligations.CommandsFaultExactlyWhereTheSpecSays := by
  unfold Obligations.CommandsFaultExactlyWhereTheSpecSays
  intro i s hidle
  refine ⟨fun f => exec_fault_iff hidle, fun hnone => ?_⟩
  obtain ⟨m, rest, _, he⟩ := exec_of_idle hidle i
  cases hx : exec i s with
  | next t => exact ⟨t, rfl⟩
  | fault f => exact nomatch hnone.symm.trans ((exec_fault_iff hidle).mp hx)
  | refused r => exact absurd (he.symm.trans hx) perform_not_refused

/-! ## REQUEST_FAST, RELEASE, IS_FREE (rules R72 to R74) -/

theorem acquire_of_coproc {h : State → State} {rest : List Micro} {s : State} (ho : s.owner = .coproc) :
    acquire h rest s = .next ((h (s.setOwner .main)).goOn rest) := by
  rw [acquire, ho]

theorem release_of_main {rest : List Micro} {s : State} (ho : s.owner = .main) :
    release rest s = .next ((s.setOwner .coproc).goOn rest) := by
  rw [release, ho]

/-- An operation whose first line leads to its response: one more step gives that response. -/
theorem start_then_respond {s t : State} {m : Micro} {code rest : List Micro} {ok : Bool} {v : Word} (hidle : s.todo = [])
    (hp : perform m code { s with todo := m :: code } = .next t) (ht : t.todo = .respond ok v :: rest) :
    ∃ u, start (m :: code) s = .next u ∧ steps 1 u = .next (t.respond ok v) :=
  ⟨t, (start_of_idle hidle m code).trans hp, steps_line ht rfl 0⟩

/-- Settles O19: the acquire takes the bus and silences the co-processor, and the response comes next. -/
theorem requestFastAcquiresWithoutWaiting : Obligations.RequestFastAcquiresWithoutWaiting := by
  unfold Obligations.RequestFastAcquiresWithoutWaiting
  intro s hidle
  refine ⟨fun ho => ?_, fun ho => (exec_fault_iff hidle).mpr (if_pos ho)⟩
  obtain ⟨t, hexec, hrun⟩ := start_then_respond (m := .acquireFast) hidle (acquire_of_coproc (by exact ho)) rfl
  refine ⟨t, hexec, hrun.trans ?_⟩
  rw [hidle]
  rfl

/-- Settles O20: the release gives the bus back and its `BUSREQ` word lets the co-processor run; the response comes next. -/
theorem releaseGivesTheBusBack : Obligations.ReleaseGivesTheBusBack := by
  unfold Obligations.ReleaseGivesTheBusBack
  intro s hidle
  refine ⟨fun ho => ?_, exec_release_fault hidle⟩
  obtain ⟨t, hexec, hrun⟩ := start_then_respond (m := .release) hidle (release_of_main (by exact ho)) rfl
  refine ⟨t, hexec, hrun.trans ?_⟩
  have hcoproc : (s.bus.request s.params s.params.busreqRelease).coproc = .running := if_pos rfl
  rw [hidle, ← hcoproc]
  rfl

/-- Settles O21: the one read turns into the response computed from the word. -/
theorem isFreeReportsTheWordRead : Obligations.IsFreeReportsTheWordRead := by
  unfold Obligations.IsFreeReportsTheWordRead
  intro s hidle
  obtain ⟨t, hexec, hrun⟩ := start_then_respond (m := .reportFree) (code := []) hidle rfl rfl
  refine ⟨t, hexec, hrun.trans ?_⟩
  have hgranted : granted s.params s.busstatWord = true ↔
      s.busstatWord &&& s.params.busstatMask = s.params.busstatFree := beq_iff_eq
  simp only [← hgranted]
  rw [hidle]
  rfl

/-! ## REQUEST (rule R71) -/

/-- The first two lines of REQUEST assert the request and end the reset of the co-processor; the poll comes next. -/
theorem steps_request_to_poll {s : State} (ht : s.todo = requestCode s.params) (ho : s.owner = .coproc) :
    steps 2 s = .next { s with
      owner := .main
      todo := [.pollGrant, .respond true 0#16]
      trace := s.trace ++ [.write .busreq s.params.busreqAssert, .write .copreset s.params.copresetRelease]
      bus := ⟨s.params.busreqAssert, s.params.copresetRelease, false,
        (s.bus.request s.params s.params.busreqAssert).coproc⟩ } := by
  rw [steps_line ht (acquire_of_coproc ho) 1, steps_line rfl rfl 0]
  simp [State.setOwner, State.memWrite, State.emit, State.goOn, Owner.busreqWord, BusControl.request,
    BusControl.endCopReset]

/-- Settles O22: the two writes lead to the poll, the poll to the response, and `OWNER = MAIN` faults at the acquire. -/
theorem requestAcquiresAndWaits : Obligations.RequestAcquiresAndWaits := by
  unfold Obligations.RequestAcquiresAndWaits
  intro s hidle
  refine ⟨fun no b rest ho hi hno hb => ?_, fun ho => (exec_fault_iff hidle).mpr (if_pos ho)⟩
  have hpoll := steps_request_to_poll (s := { s with todo := requestCode s.params }) rfl ho
  have hgrant := (steps_add hpoll (no.length + 1)).trans (steps_grant _ rfl hi hno hb)
  have hrespond := (steps_add hgrant 1).trans (steps_line rfl rfl 0)
  rw [show 2 + (no.length + 1) + 1 = no.length + 3 + 1 by omega] at hrespond
  obtain ⟨t, hexec, hrun⟩ := start_and_run hidle hrespond
  refine ⟨t, hexec, hrun.trans ?_⟩
  rw [hidle]
  rfl

/-- Settles O23: the two writes lead to the poll, and a word that is not `GRANTED` leaves it where it is. -/
theorem requestHangsUntilGranted : Obligations.RequestHangsUntilGranted := by
  unfold Obligations.RequestHangsUntilGranted
  intro s no rest hidle ho hi hno
  have hpoll := steps_request_to_poll (s := { s with todo := requestCode s.params }) rfl ho
  have hread := (steps_add hpoll no.length).trans (steps_poll_notGranted no _ rfl hi hno)
  rw [Nat.add_comm] at hread
  obtain ⟨t, hexec, hrun⟩ := start_and_run hidle hread
  exact ⟨t, _, hexec, hrun, rfl, rfl, rfl, rfl⟩

/-! ## A transfer inside a bracket (rule R76) -/

theorem step_acquireFast_of_main {s : State} {rest : List Micro} (ht : s.todo = .acquireFast :: rest)
    (ho : s.owner = .main) : step s = .fault .busProtocol :=
  (step_of_busy ht).trans (perform_fault_iff_faultIn.mpr (if_pos ho))

/-- `transfer_fast` while the main processor owns the bus: the status reads and the first seven words lead to a
`request_fast()` that faults. -/
theorem start_transferFast_insideBracket {s : State} {busy ws : List Word} {w : Word} (c : DmaCommand)
    (more : List Micro) (hidle : s.todo = []) (ho : s.owner = .main) (hi : s.statusIn = busy ++ w :: ws)
    (hb : ∀ b ∈ busy, dmaBusy s.params b = true) (hw : dmaBusy s.params w = false) :
    ∃ t u, start (transferFastCode c ++ more) s = .next t ∧ steps (busy.length + 7) t = .next u ∧
      u.trace = s.trace ++ (busy ++ [w]).map (.read .status) ++ (c.words.take 7).map (.write .ctrl) ∧
      u.responses = s.responses ∧ step u = .fault .busProtocol := by
  have hbracket := steps_transferFast_to_bracket c { s with todo := transferFastCode c ++ more } rfl hi hb hw
  obtain ⟨t, hexec, hrun⟩ := start_and_run hidle hbracket
  exact ⟨t, _, hexec, hrun, rfl, rfl, step_acquireFast_of_main rfl ho⟩

/-- Settles O29: TRANSFER_FAST is `transfer_fast` and a response. -/
theorem transferFastInsideABracketFaultsAfterSevenWrites :
    Obligations.TransferFastInsideABracketFaultsAfterSevenWrites := by
  unfold Obligations.TransferFastInsideABracketFaultsAfterSevenWrites
  intro s src dest len inc tgt busy w rest hidle ho hi hb hw
  exact start_transferFast_insideBracket _ _ hidle ho hi hb hw

/-- The lines of a TRANSFER that passes its checks begin with `transfer_fast` for its first segment. -/
theorem codeOf_transfer_eq_append {src : BitVec 32} {dest len : BitVec 16} {inc : Byte} {tgt : Target} {s : State}
    (hinc : 2 ≤ inc.toNat) (hlen : 1 ≤ len.toNat) :
    ∃ more, codeOf (.transfer src dest len inc tgt) s =
      transferFastCode (Segment.build s.params
        (if crosses src len then tailSegment src dest len else ⟨src, dest, len⟩) inc tgt) ++ more := by
  have hpass : ¬(badIncrement inc || zeroLength len) = true := by
    have hne : len ≠ 0#16 := by rintro rfl; simp at hlen
    have hlt : ¬inc.toNat < 2 := Nat.not_lt.mpr hinc
    simp [badIncrement, zeroLength, hne, hlt]
  obtain ⟨more, hseg⟩ := segments_eq_cons src dest len
  simp only [codeOf, if_neg hpass, transferCode, hseg, List.flatMap_cons, List.append_assoc]
  exact ⟨_, rfl⟩

/-- Settles O30: TRANSFER begins with `transfer_fast` for its first segment, the tail of a crossing request. -/
theorem transferInsideABracketFaultsInItsFirstSegment :
    Obligations.TransferInsideABracketFaultsInItsFirstSegment := by
  unfold Obligations.TransferInsideABracketFaultsInItsFirstSegment
  intro s src dest len inc tgt busy w rest hidle ho hinc hlen hi hb hw r c
  obtain ⟨more, hcode⟩ := codeOf_transfer_eq_append (src := src) (dest := dest) (tgt := tgt) (s := s) hinc hlen
  have hc : Segment.build s.params
      (if crosses src len then tailSegment src dest len else ⟨src, dest, len⟩) inc tgt = c := by
    simp only [crosses, decide_eq_true_eq]
    exact apply_ite (Segment.build s.params · inc tgt) ..
  rw [exec_eq_start, hcode, hc]
  exact start_transferFast_insideBracket c more hidle ho hi hb hw

end Sys2Proof.Machine

/-! Proofs of the family `41_dma_engine.md` (rules R80 to R89): the windows and the split, and the four commands of the DMA
engine. -/

namespace Sys2Proof.Machine

open Sys2Proof

/-! ## `REMAIN` and the windows (rules R82, R83) -/

/-- `REMAIN` in the arithmetic of naturals, for an odd source too (rule R83). -/
theorem remain_eq (src : BitVec 32) : remain src = (0x20000 - src.toNat % 0x20000) / 2 := by
  have hmask : (src &&& 0x1FFFF#32).toNat = src.toNat % 0x20000 := Nat.and_two_pow_sub_one_eq_mod src.toNat 17
  rw [remain, hmask, Nat.shiftRight_eq_div_pow]

theorem crosses_iff (src : BitVec 32) (len : BitVec 16) : crosses src len = true ↔ remain src < len.toNat :=
  decide_eq_true_iff

/-- Settles O15: `remain_eq` gives the count; an even source is followed by a positive even number of bytes. -/
theorem remainCountsWordsToTheBoundary : Obligations.RemainCountsWordsToTheBoundary := by
  unfold Obligations.RemainCountsWordsToTheBoundary
  intro src
  have hr := remain_eq src
  refine ⟨hr, by omega, fun heven => ?_⟩
  have hboundary := mod_window_add_remain heven
  omega

/-- Settles O16: the last byte is in the window of the first exactly when the range ends by the next boundary, which lies
`2 * REMAIN` bytes from an even source. -/
theorem crossingMeansLeavingTheWindow : Obligations.CrossingMeansLeavingTheWindow := by
  unfold Obligations.CrossingMeansLeavingTheWindow
  intro src len heven hlen
  have hboundary := mod_window_add_remain heven
  have hwindow := windowOf_eq_iff src.toNat (2 * len.toNat - 1)
  rw [crosses_iff, Nat.add_sub_assoc (by omega), ne_eq, ← windowOf, ← windowOf, hwindow]
  omega

/-! ## The two segments of a split (rules R86, R87) -/

theorem segments_of_crosses {src : BitVec 32} {len : BitVec 16} (h : remain src < len.toNat) (dest : BitVec 16) :
    segments src dest len = [tailSegment src dest len, headSegment src dest] :=
  if_pos ((crosses_iff src len).mpr h)

theorem segments_of_not_crosses {src : BitVec 32} {len : BitVec 16} (h : len.toNat ≤ remain src) (dest : BitVec 16) :
    segments src dest len = [⟨src, dest, len⟩] :=
  if_neg (mt (crosses_iff src len).mp (Nat.not_lt.mpr h))

/-- The head of a crossing request takes every word up to the boundary: `REMAIN` fits its length field. -/
theorem headSegment_len_toNat {src : BitVec 32} {len : BitVec 16} (h : remain src < len.toNat) (dest : BitVec 16) :
    (headSegment src dest).len.toNat = remain src :=
  Nat.mod_eq_of_lt (h.trans len.isLt)

theorem tailSegment_len_toNat (src : BitVec 32) (dest len : BitVec 16) :
    (tailSegment src dest len).len.toNat = len.toNat - remain src :=
  Nat.mod_eq_of_lt ((Nat.sub_le ..).trans_lt len.isLt)

theorem tailSegment_src_toNat (src : BitVec 32) (dest len : BitVec 16) :
    (tailSegment src dest len).src.toNat = (src.toNat + 2 * remain src) % 2 ^ 32 := by
  rw [tailSegment, BitVec.toNat_add, BitVec.toNat_ofNat, Nat.add_mod_mod]

theorem tailSegment_dest_toNat (src : BitVec 32) (dest len : BitVec 16) :
    (tailSegment src dest len).dest.toNat = (dest.toNat + 2 * remain src) % 2 ^ 16 := by
  rw [tailSegment, BitVec.toNat_add, BitVec.toNat_ofNat, Nat.add_mod_mod]

/-- The next boundary after an even source (rule R83). -/
theorem add_remain_eq_boundary {src : BitVec 32} (h : src.getLsbD 0 = false) :
    src.toNat + 2 * remain src = (src.toNat / 0x20000 + 1) * 0x20000 := by
  have hboundary := mod_window_add_remain h
  omega

/-- Settles O17: the segments are `REMAIN` words up to the boundary and the others after it. -/
theorem splitKeepsEachSegmentInOneWindow : Obligations.SplitKeepsEachSegmentInOneWindow := by
  unfold Obligations.SplitKeepsEachSegmentInOneWindow
  intro src dest len heven hc boundary t h
  have hcross := (crosses_iff src len).mp hc
  have hpos := mod_window_add_remain heven
  have hhead : h.len.toNat = remain src := headSegment_len_toNat hcross dest
  have htail : t.len.toNat = len.toNat - remain src := tailSegment_len_toNat src dest len
  have hboundary : src.toNat + 2 * remain src = boundary := add_remain_eq_boundary heven
  rw [hhead, htail]
  refine ⟨segments_of_crosses hcross dest, rfl, rfl, hboundary, ?_, tailSegment_dest_toNat .., ?_, ?_, ?_,
    tailSegment_not_corrupted heven dest len, headSegment_not_corrupted heven dest⟩
  · rw [← hboundary]
    exact tailSegment_src_toNat ..
  all_goals omega

/-- Settles O18: from the last byte of a window no whole word fits before the boundary. -/
theorem oddLastByteSplitsOffAZeroLengthHead : Obligations.OddLastByteSplitsOffAZeroLengthHead := by
  unfold Obligations.OddLastByteSplitsOffAZeroLengthHead
  intro src dest len hlast hlen
  have hr : remain src = 0 := by rw [remain_eq, hlast]
  have hpos : 0 < len.toNat := Nat.pos_of_ne_zero fun h0 => hlen (BitVec.eq_of_toNat_eq h0)
  rw [segments_of_crosses (hr ▸ hpos)]
  simp [tailSegment, headSegment, hr]

/-! ## Operations that end in a response (rule R113) -/

/-- An operation whose one line is its response (rule R122). -/
theorem exec_of_respond {i : Instr} {s : State} {ok : Bool} {v : Word} (hidle : s.todo = [])
    (hc : codeOf i s = [.respond ok v]) : exec i s = .next { s with responses := s.responses ++ [⟨ok, v⟩] } := by
  rw [exec_eq_start, hc, start_of_idle hidle, hidle]
  rfl

/-- Accepting a command runs its first line, so that a run of its lines up to the response takes as many further steps as
it has lines before the response. -/
theorem exec_and_respond {i : Instr} {s u : State} {n : Nat} {ok : Bool} {v : Word} (hidle : s.todo = [])
    (hrun : steps n { s with todo := codeOf i s } = .next u) (hu : u.todo = [.respond ok v]) :
    ∃ t, exec i s = .next t ∧ steps n t = .next (u.respond ok v) := by
  have hrespond := (steps_add hrun 1).trans (steps_line hu rfl 0)
  obtain ⟨m, rest, hc⟩ := List.exists_cons_of_ne_nil (codeOf_ne_nil i s)
  rw [exec_eq_start, hc]
  rw [hc] at hrespond
  exact start_and_run hidle hrespond

/-! ## WAIT (rule R89) -/

/-- Settles O24: the first line of WAIT is its poll, which reads one word. -/
theorem waitPollsOnceAStep : Obligations.WaitPollsOnceAStep := by
  unfold Obligations.WaitPollsOnceAStep
  intro s hidle
  exact start_of_idle hidle .pollStatus [.respond true 0#16]

/-- Settles O25: the wait leads to the response, and its last word shows that nothing is in flight. -/
theorem waitEndsWithTheFirstClearWord : Obligations.WaitEndsWithTheFirstClearWord := by
  unfold Obligations.WaitEndsWithTheFirstClearWord
  intro s busy w rest hidle hi hb hw d
  obtain ⟨_, hquiet, _⟩ := Vdp.waited hw busy s.vdp
  have hwait := steps_wait { s with todo := codeOf .wait s } rfl hi hb hw
  obtain ⟨t, hexec, hrun⟩ := exec_and_respond hidle hwait rfl
  refine ⟨hquiet, t, hexec, hrun.trans ?_⟩
  rw [hidle]
  rfl

/-- Settles O26: a busy word leaves the poll where it is. -/
theorem waitHangsWhileBusy : Obligations.WaitHangsWhileBusy := by
  unfold Obligations.WaitHangsWhileBusy
  intro s b busy rest hidle hi hb
  have hpoll := steps_poll_busy (b :: busy) { s with todo := codeOf .wait s } rfl hi hb
  obtain ⟨t, hexec, hrun⟩ := start_and_run hidle hpoll
  exact ⟨t, _, hexec, hrun, rfl, rfl, rfl, rfl⟩

/-! ## TRANSFER_FAST and TRANSFER (rules R85 to R87) -/

/-- Settles O27: the lines of `transfer_fast` lead to the response. -/
theorem transferFastIssuesTheEightWords : Obligations.TransferFastIssuesTheEightWords := by
  unfold Obligations.TransferFastIssuesTheEightWords
  intro s src dest len inc tgt busy w rest hidle ho hi hb hw c
  have hfast := steps_transferFast c { s with todo := codeOf (.transferFast src dest len inc tgt) s } rfl ho hi hb hw
  obtain ⟨t, hexec, hrun⟩ := exec_and_respond hidle hfast rfl
  refine ⟨t, hexec, hrun.trans ?_⟩
  rw [hidle]
  rfl

/-- The checks of TRANSFER fail exactly where rule R120 says. -/
theorem transfer_fails_iff (inc : Byte) (len : BitVec 16) :
    (badIncrement inc || zeroLength len) = true ↔ inc.toNat < 2 ∨ len = 0#16 := by
  simp [badIncrement, zeroLength]

/-- The lines of a TRANSFER that passes its checks. -/
theorem codeOf_transfer_of_passes {len : BitVec 16} {inc : Byte} (hinc : 2 ≤ inc.toNat) (hlen : 1 ≤ len.toNat)
    (src : BitVec 32) (dest : BitVec 16) (tgt : Target) (s : State) :
    codeOf (.transfer src dest len inc tgt) s = transferCode s.params src dest len inc tgt := by
  refine if_neg (mt (transfer_fails_iff inc len).mp ?_)
  rintro (hlow | rfl)
  · omega
  · exact Nat.not_lt_zero 0 hlen

/-- Settles O31: the response is the only line. -/
theorem transferFailureHasNoEffect : Obligations.TransferFailureHasNoEffect := by
  unfold Obligations.TransferFailureHasNoEffect
  intro s src dest len inc tgt hidle hfail
  exact exec_of_respond hidle (if_pos ((transfer_fails_iff inc len).mpr hfail))

/-- Settles O32: there is one segment, the request whole, so the lines are those of TRANSFER_FAST. -/
theorem transferWithoutCrossingIsTransferFast : Obligations.TransferWithoutCrossingIsTransferFast := by
  unfold Obligations.TransferWithoutCrossingIsTransferFast
  intro s src dest len inc tgt hinc hlen hfit
  rw [exec_eq_start, exec_eq_start, codeOf_transfer_of_passes hinc hlen, transferCode, segments_of_not_crosses hfit]
  rfl

/-- The lines of a crossing TRANSFER that passes its checks: `transfer_fast` for the tail, then for the head. -/
theorem codeOf_transfer_of_crosses {src : BitVec 32} {len : BitVec 16} {inc : Byte} (hinc : 2 ≤ inc.toNat)
    (hcross : remain src < len.toNat) (dest : BitVec 16) (tgt : Target) (s : State) :
    codeOf (.transfer src dest len inc tgt) s =
      transferFastCode ((tailSegment src dest len).build s.params inc tgt) ++
        (transferFastCode ((headSegment src dest).build s.params inc tgt) ++ [.respond true 0#16]) := by
  rw [codeOf_transfer_of_passes hinc (Nat.zero_lt_of_lt hcross), transferCode, segments_of_crosses hcross]
  rfl

/-- Settles O33: the lines of `transfer_fast` for the tail leave the bus with the co-processor, from where those for the
head lead to the response. -/
theorem crossingTransferIssuesTailThenHead : Obligations.CrossingTransferIssuesTailThenHead := by
  unfold Obligations.CrossingTransferIssuesTailThenHead
  intro s src dest len inc tgt busy busy' w w' rest hidle ho hinc hcross hi hb hw hw' r a b
  obtain ⟨hbusy, hbusy'⟩ := List.forall_mem_append.mp hb
  have htail := steps_transferFast a { s with todo := codeOf (.transfer src dest len inc tgt) s }
    (codeOf_transfer_of_crosses hinc hcross dest tgt s) ho hi hbusy hw
  have hhead := (steps_add htail (busy'.length + 11)).trans (steps_transferFast b _ rfl ho rfl hbusy' hw')
  rw [show busy.length + 11 + (busy'.length + 11) = busy.length + busy'.length + 22 by omega] at hhead
  obtain ⟨t, hexec, hrun⟩ := exec_and_respond hidle hhead rfl
  refine ⟨t, hexec, hrun.trans ?_⟩
  rw [hidle]
  rfl

/-! ## FILL (rule R88) -/

/-- Settles O34: the response is the only line. -/
theorem shortFillHasNoEffect : Obligations.ShortFillHasNoEffect := by
  unfold Obligations.ShortFillHasNoEffect
  intro s dest len val inc hidle hshort
  exact exec_of_respond hidle (if_pos (decide_eq_true hshort))

/-- The control words of a FILL of `n + 1` bytes (rules R61, R88). -/
def fillCtrlWords (p : Params) (dest n : BitVec 16) (inc : Byte) : List Word :=
  [regw p p.selAutoinc inc, regw p p.selLenl (loByte n), regw p p.selLenh (hiByte n), p.fillSelect,
    hiHalf (trig p.fillBase dest), loHalf (trig p.fillBase dest)]

/-- The lines of a FILL that passes its check: a wait, the control words, the seed, the response. -/
theorem codeOf_fill {len : BitVec 16} (hlen : 2 ≤ len.toNat) (dest : BitVec 16) (val inc : Byte) (s : State) :
    codeOf (.fill dest len val inc) s =
      .pollStatus :: ((fillCtrlWords s.params dest (BitVec.ofNat 16 (len.toNat - 1)) inc).map (.write .ctrl) ++
        [.write .data (val ++ val), .respond true 0#16]) := by
  have hpass : ¬shortFill len = true := mt of_decide_eq_true (Nat.not_lt.mpr hlen)
  have hn : len - 1#16 = BitVec.ofNat 16 (len.toNat - 1) := by bv_omega
  rw [codeOf, if_neg hpass, fillCode, hn, seedWord_eq_append]
  rfl

/-- Settles O35: the wait, the six control words and the seed lead to the response; none of them looks at `OWNER`. -/
theorem fillProgramsOneLessAndSeeds : Obligations.FillProgramsOneLessAndSeeds := by
  unfold Obligations.FillProgramsOneLessAndSeeds
  intro s dest len val inc busy w rest hidle hlen hi hb hw n t32 ctrl
  have hwait := steps_wait { s with todo := codeOf (.fill dest len val inc) s } (codeOf_fill hlen dest val inc s)
    hi hb hw
  have hctrl := (steps_add hwait 6).trans (steps_ctrlWrites ctrl _ rfl)
  have hseed := (steps_add hctrl 1).trans (steps_line rfl rfl 0)
  obtain ⟨t, hexec, hrun⟩ := exec_and_respond hidle hseed rfl
  refine ⟨t, hexec, hrun.trans ?_⟩
  rw [hidle]
  rfl

end Sys2Proof.Machine

/-! Proofs of the family `42_dma_queue.md` (rules R100 to R107): the five commands of the queue, what the others leave of it,
and PUSH with FLUSH against TRANSFER. -/

namespace Sys2Proof.Machine

open Sys2Proof

/-! ## Commands stored one after the other (rules R100, R101) -/

/-- The slots after the commands `cs` have been stored, the first of them in slot `n` (rule R100). -/
def storeFrom : List DmaCommand → Nat → List DmaCommand → List DmaCommand
  | slots, _, [] => slots
  | slots, n, c :: cs => storeFrom (slots.set n c) (n + 1) cs

@[simp] theorem storeFrom_length (slots : List DmaCommand) (n : Nat) (cs : List DmaCommand) :
    (storeFrom slots n cs).length = slots.length := by
  induction cs generalizing slots n with
  | nil => rfl
  | cons c cs ih => rw [storeFrom, ih, List.length_set]

/-- A stored command ends the queue (rule R14). -/
theorem take_set_succ {slots : List DmaCommand} {n : Nat} (h : n < slots.length) (c : DmaCommand) :
    (slots.set n c).take (n + 1) = slots.take n ++ [c] := by
  rw [List.take_add_one, List.take_set_of_le (Nat.le_refl n), List.getElem?_set_self h, Option.toList_some]

/-- Stored commands follow those that were queued, in their order (rules R14, R100). -/
theorem take_storeFrom {slots : List DmaCommand} {n : Nat} {cs : List DmaCommand} (h : n + cs.length ≤ slots.length) :
    (storeFrom slots n cs).take (n + cs.length) = slots.take n ++ cs := by
  induction cs generalizing slots n with
  | nil => simp [storeFrom]
  | cons c cs ih =>
    rw [List.length_cons] at h ⊢
    rw [storeFrom, show n + (cs.length + 1) = n + 1 + cs.length by omega, ih (by rw [List.length_set]; omega),
      take_set_succ (by omega), List.append_assoc, List.singleton_append]

/-- The lines of `push_fast` for each of several commands, with a free slot for each (rules R100, R101). -/
theorem steps_pushes {rest : List Micro} (cs : List DmaCommand) (s : State)
    (ht : s.todo = cs.flatMap pushFastCode ++ rest) (hroom : s.cursor + cs.length ≤ s.params.qcap) :
    steps (9 * cs.length) s = .next { s with
      todo := rest
      slots := storeFrom s.slots s.cursor cs
      cursor := s.cursor + cs.length } := by
  induction cs generalizing s with
  | nil => rw [show rest = s.todo from ht.symm]; rfl
  | cons c cs ih =>
    rw [List.length_cons] at hroom ⊢
    rw [List.flatMap_cons, List.append_assoc] at ht
    rw [show 9 * (cs.length + 1) = 9 + 9 * cs.length by omega, steps_add (steps_pushFast c s ht (by omega)),
      ih _ rfl (by simp only; omega), show s.cursor + (cs.length + 1) = s.cursor + 1 + cs.length by omega]
    rfl

/-! ## PUSH_FAST (rule R100) -/

/-- Settles O37: the lines of `push_fast` lead to the response; on a full queue the first store faults. -/
theorem pushFastAppendsOrOverflows : Obligations.PushFastAppendsOrOverflows := by
  unfold Obligations.PushFastAppendsOrOverflows
  intro s src dest len inc tgt hidle
  refine ⟨fun hfree => ?_, fun hfull => (exec_fault_iff hidle).mpr (if_pos hfull.ge)⟩
  have hpush := steps_pushFast (build s.params src dest len inc tgt)
    { s with todo := codeOf (.pushFast src dest len inc tgt) s } rfl hfree
  obtain ⟨t, hexec, hrun⟩ := exec_and_respond hidle hpush rfl
  refine ⟨t, hexec, hrun.trans ?_⟩
  rw [hidle]
  rfl

/-! ## PUSH (rule R101) -/

/-- The commands a request comes to, in the order they are issued or queued (rules R86, R101). -/
def commandsOf (p : Params) (src : BitVec 32) (dest len : BitVec 16) (inc : Byte) (tgt : Target) : List DmaCommand :=
  (segments src dest len).map (·.build p inc tgt)

section
variable {src : BitVec 32} {dest len : BitVec 16} {inc : Byte} {tgt : Target}

theorem commandsOf_length (p : Params) :
    (commandsOf p src dest len inc tgt).length = (segments src dest len).length := List.length_map ..

theorem commandsOf_of_crosses (h : remain src < len.toNat) (p : Params) :
    commandsOf p src dest len inc tgt =
      [(tailSegment src dest len).build p inc tgt, (headSegment src dest).build p inc tgt] :=
  congrArg (List.map _) (segments_of_crosses h dest)

theorem commandsOf_of_not_crosses (h : len.toNat ≤ remain src) (p : Params) :
    commandsOf p src dest len inc tgt = [build p src dest len inc tgt] :=
  congrArg (List.map _) (segments_of_not_crosses h dest)

theorem pushCode_eq (p : Params) :
    pushCode p src dest len inc tgt =
      (commandsOf p src dest len inc tgt).flatMap pushFastCode ++ [.respond true 0#16] := by
  rw [pushCode, commandsOf, List.flatMap_map]

/-- The checks of PUSH fail exactly where rules R101 and R120 say. For a crossing request the model asks for fewer than two free
slots, which is one where the check before it has passed. -/
theorem pushFails_iff {s : State} :
    pushFails src len inc s = true ↔ inc.toNat < 2 ∨ len = 0#16 ∨ s.params.qcap - s.cursor = 0 ∨
      (remain src < len.toNat ∧ s.params.qcap - s.cursor = 1) := by
  unfold pushFails badIncrement zeroLength freeSlots
  simp only [Bool.or_eq_true, Bool.and_eq_true, decide_eq_true_eq, beq_iff_eq, crosses_iff, or_assoc, BitVec.toNat_eq,
    BitVec.toNat_zero]
  omega

/-- The operands and the slots with which a PUSH passes its checks (rule R101). -/
theorem push_passes_iff {s : State} :
    pushFails src len inc s = false ↔ 2 ≤ inc.toNat ∧ 1 ≤ len.toNat ∧ s.cursor < s.params.qcap ∧
      (remain src < len.toNat → s.cursor + 2 ≤ s.params.qcap) := by
  rw [← Bool.not_eq_true, pushFails_iff, BitVec.toNat_eq, BitVec.toNat_zero]
  omega

/-- A PUSH that passes its checks stores its commands from the slot at `CURSOR` on and responds `(1, 0)`. -/
theorem push_stores_commands {s : State} (hidle : s.todo = []) (hpass : pushFails src len inc s = false) :
    ∃ t, exec (.push src dest len inc tgt) s = .next t ∧ steps (9 * (segments src dest len).length) t = .next { s with
      slots := storeFrom s.slots s.cursor (commandsOf s.params src dest len inc tgt)
      cursor := s.cursor + (segments src dest len).length
      responses := s.responses ++ [⟨true, 0#16⟩] } := by
  have hcode : codeOf (.push src dest len inc tgt) s = _ :=
    (if_neg (Bool.eq_false_iff.mp hpass)).trans (pushCode_eq s.params)
  have hroom := push_has_room (dest := dest) hpass
  rw [← commandsOf_length (inc := inc) (tgt := tgt) s.params] at hroom ⊢
  have hpush := steps_pushes _ { s with todo := codeOf (.push src dest len inc tgt) s } hcode hroom
  obtain ⟨t, hexec, hrun⟩ := exec_and_respond hidle hpush rfl
  refine ⟨t, hexec, hrun.trans ?_⟩
  rw [hidle]
  rfl

end

/-- Settles O38: the response is the only line. -/
theorem pushFailsClosed : Obligations.PushFailsClosed := by
  unfold Obligations.PushFailsClosed
  intro s src dest len inc tgt hidle hfail
  exact exec_of_respond hidle (if_pos (pushFails_iff.mpr hfail))

/-- Settles O39: the request comes to one command. -/
theorem pushWithoutCrossingAppendsOne : Obligations.PushWithoutCrossingAppendsOne := by
  unfold Obligations.PushWithoutCrossingAppendsOne
  intro s src dest len inc tgt hidle hinc hlen hfit hfree
  have hpass : pushFails src len inc s = false := push_passes_iff.mpr (by omega)
  have hpush := push_stores_commands (dest := dest) (tgt := tgt) hidle hpass
  rw [segments_of_not_crosses hfit, commandsOf_of_not_crosses hfit] at hpush
  exact hpush

/-- Settles O40: the request comes to two commands, the tail and the head. -/
theorem crossingPushAppendsTailThenHead : Obligations.CrossingPushAppendsTailThenHead := by
  unfold Obligations.CrossingPushAppendsTailThenHead
  intro s src dest len inc tgt hidle hinc hcross hfree r a b
  have hpass : pushFails src len inc s = false := push_passes_iff.mpr (by omega)
  have hpush := push_stores_commands (dest := dest) (tgt := tgt) hidle hpass
  rw [segments_of_crosses hcross, commandsOf_of_crosses hcross] at hpush
  exact hpush

/-! ## FLUSH (rule R102) -/

/-- The slot fields a replay of `n` slots writes, in order (rule R102). -/
def replayFields (n : Nat) : List (Nat × Fin 8) := (List.range n).flatMap fun i => fieldIndices.map fun k => (i, k)

theorem replayFields_length (n : Nat) : (replayFields n).length = 8 * n := by
  simp [replayFields, fieldIndices, Nat.mul_comm]

theorem codeOf_flush (s : State) :
    codeOf .flush s = .acquireFast :: ((replayFields s.cursor).map (fun x => .writeSlot x.1 x.2) ++
      .release :: [.emptyQueue, .respond true 0#16]) := by
  simp [codeOf, flushCode, replayFields, List.map_flatMap, Function.comp_def]

/-- `request_fast()` opens the bracket and silences the co-processor (rules R72, R77). -/
theorem steps_openBracket {s : State} {rest : List Micro} (ht : s.todo = .acquireFast :: rest) (ho : s.owner = .coproc) :
    steps 1 s = .next { s with
      owner := .main
      todo := rest
      trace := s.trace ++ [.write .busreq s.params.busreqAssert]
      bus := { s.bus with busreq := s.params.busreqAssert, coproc := .silenced } } :=
  steps_acquireFast ht ho

/-- A replay writes the words of the queued commands, slot 0 first (rule R102). -/
theorem steps_replay {s : State} {n : Nat} {rest : List Micro} (hn : n ≤ s.slots.length)
    (ht : s.todo = (replayFields n).map (fun x => .writeSlot x.1 x.2) ++ .release :: rest) :
    steps (8 * n) s = .next { s with
      todo := .release :: rest
      trace := s.trace ++ ((s.slots.take n).flatMap DmaCommand.words).map (.write .ctrl)
      vdp := ((s.slots.take n).flatMap DmaCommand.words).foldl (fun d v => d.control s.params v) s.vdp } := by
  rw [← replayFields_length, ← slotWords_eq hn]
  exact steps_writeSlots (replayFields n) s ht

/-- `release()` while the main processor owns the bus (rules R37 (d), R73). -/
theorem steps_release {s : State} {rest : List Micro} (ht : s.todo = .release :: rest) (ho : s.owner = .main) :
    steps 1 s = .next { s with
      owner := .coproc
      todo := rest
      trace := s.trace ++ [.write .busreq s.params.busreqRelease]
      bus := { s.bus with busreq := s.params.busreqRelease, coproc := .running } } := by
  rw [steps_line ht (release_of_main ho) 0, steps_zero, State.setOwner, State.memWrite, State.deviceWrite_busreq,
    Owner.busreqWord, BusControl.request, if_pos rfl]
  rfl

/-- FLUSH of a queue within its slots, while the co-processor owns the bus: the words of the queued commands inside one
bracket, then the empty queue and the response. -/
theorem flush_replays {s : State} (hidle : s.todo = []) (hlen : s.cursor ≤ s.slots.length) (ho : s.owner = .coproc) :
    let ws := (s.slots.take s.cursor).flatMap DmaCommand.words
    ∃ t, exec .flush s = .next t ∧ steps (8 * s.cursor + 3) t = .next { s with
      cursor := 0
      trace := s.trace ++ [.write .busreq s.params.busreqAssert] ++ ws.map (.write .ctrl) ++
        [.write .busreq s.params.busreqRelease]
      responses := s.responses ++ [⟨true, 0#16⟩]
      vdp := ws.foldl (fun d v => d.control s.params v) s.vdp
      bus := { s.bus with busreq := s.params.busreqRelease, coproc := .running } } := by
  have hacquire := steps_openBracket (s := { s with todo := codeOf .flush s }) (codeOf_flush s) ho
  have hreplay := (steps_add hacquire (8 * s.cursor)).trans (steps_replay hlen rfl)
  have hrelease := (steps_add hreplay 1).trans (steps_release rfl rfl)
  have hempty := (steps_add hrelease 1).trans (steps_line rfl rfl 0)
  rw [show 1 + 8 * s.cursor + 1 + 1 = 8 * s.cursor + 3 by omega] at hempty
  obtain ⟨t, hexec, hrun⟩ := exec_and_respond hidle hempty rfl
  refine ⟨t, hexec, hrun.trans ?_⟩
  rw [← ho, hidle]
  rfl

/-- Settles O41: the queue stays within its slots, so that every slot replayed is one of them. -/
theorem flushReplaysTheQueueInOrder : Obligations.FlushReplaysTheQueueInOrder := by
  unfold Obligations.FlushReplaysTheQueueInOrder
  intro s hi hidle
  obtain ⟨_, hcursor, hlen, _⟩ := hi
  exact ⟨flush_replays hidle (hcursor.trans_eq hlen.symm), fun ho => (exec_fault_iff hidle).mpr (if_pos ho)⟩

/-! ## SIZE and CLEAR (rules R103, R104) -/

/-- The number of slots fits a 16-bit value (rule R5). -/
theorem Params.qcap_lt {p : Params} (h : p.wf = true) : p.qcap < 2 ^ 16 := by
  simp only [Params.wf, Params.qcapOk, Bool.and_eq_true, decide_eq_true_eq] at h
  omega

/-- Settles O42: the response is the only line, and `CURSOR` is at most `QCAP`. -/
theorem sizeReportsTheCursor : Obligations.SizeReportsTheCursor := by
  unfold Obligations.SizeReportsTheCursor
  refine ⟨decode_of_encode rfl, fun s hidle => ⟨exec_of_respond hidle rfl, ?_⟩⟩
  rintro ⟨hwf, hcursor, _⟩
  exact Nat.mod_eq_of_lt (hcursor.trans_lt (Params.qcap_lt hwf))

/-- Settles O43: the cursor's line leads to the response. -/
theorem clearEmptiesTheQueue : Obligations.ClearEmptiesTheQueue := by
  unfold Obligations.ClearEmptiesTheQueue
  refine ⟨decode_of_encode rfl, fun s hidle => ?_⟩
  obtain ⟨t, hexec, hrun⟩ := start_then_respond (m := .emptyQueue) hidle rfl rfl
  refine ⟨t, hexec, hrun.trans ?_⟩
  rw [hidle]
  rfl

/-! ## PUSH then FLUSH, and TRANSFER (rule R107) -/

@[simp] theorem wordsTo_map_read (port : WritePort) (q : ReadPort) (vs : List Word) :
    wordsTo port (vs.map (.read q)) = [] := by
  induction vs with
  | nil => rfl
  | cons v vs ih => exact ih

@[simp] theorem wordsTo_map_write (port : WritePort) (vs : List Word) : wordsTo port (vs.map (.write port)) = vs := by
  induction vs with
  | nil => rfl
  | cons v vs ih => simp [wordsTo, ih]

/-- The trace of a FLUSH of `ws` holds these words as `CTRL` writes (rule R102). -/
theorem wordsTo_ctrl_flush (es : List Event) (ws : List Word) (v v' : Word) :
    wordsTo .ctrl (es ++ ([.write .busreq v] : List Event) ++ ws.map (.write .ctrl) ++
      ([.write .busreq v'] : List Event)) = wordsTo .ctrl es ++ ws := by
  simp [wordsTo_append, wordsTo]

/-- The trace of a `transfer_fast` holds the words of its command as `CTRL` writes (rule R85). -/
theorem wordsTo_ctrl_transferFast (es : List Event) (reads : List Word) (c : DmaCommand) (v v' : Word) :
    wordsTo .ctrl (es ++ reads.map (.read .status) ++
      ([.write .ctrl c.autoinc, .write .ctrl c.lenl, .write .ctrl c.lenh, .write .ctrl c.srcl, .write .ctrl c.srcm,
        .write .ctrl c.srch, .write .ctrl c.trigh, .write .busreq v, .write .ctrl c.trigl,
        .write .busreq v'] : List Event)) = wordsTo .ctrl es ++ c.words := by
  rw [wordsTo_append, wordsTo_append, wordsTo_map_read, List.append_nil]
  rfl

section
variable {src : BitVec 32} {dest len : BitVec 16} {inc : Byte} {tgt : Target} {s : State}

/-- A TRANSFER that passes its checks runs to its response and has written the words of its commands to `CTRL`. -/
theorem transfer_writes_commands {busy busy' rest : List Word} {w w' : Word} (hidle : s.todo = [])
    (ho : s.owner = .coproc) (hinc : 2 ≤ inc.toNat) (hlen : 1 ≤ len.toNat)
    (hi : s.statusIn = busy ++ w :: (busy' ++ w' :: rest)) (hb : ∀ b ∈ busy ++ busy', dmaBusy s.params b = true)
    (hw : dmaBusy s.params w = false) (hw' : dmaBusy s.params w' = false) :
    ∃ (c v : State) (n : Nat), exec (.transfer src dest len inc tgt) s = .next c ∧ steps n c = .next v ∧ v.todo = [] ∧
      v.responses = s.responses ++ [⟨true, 0#16⟩] ∧
      wordsTo .ctrl v.trace =
        wordsTo .ctrl s.trace ++ (commandsOf s.params src dest len inc tgt).flatMap DmaCommand.words := by
  rcases Nat.lt_or_ge (remain src) len.toNat with hcross | hfit
  · obtain ⟨c, hexec, hrun⟩ := crossingTransferIssuesTailThenHead s src dest len inc tgt busy busy' w w' rest hidle ho
      hinc hcross hi hb hw hw'
    refine ⟨c, _, _, hexec, hrun, hidle, rfl, ?_⟩
    rw [wordsTo_ctrl_transferFast, wordsTo_ctrl_transferFast, List.append_assoc, commandsOf_of_crosses hcross]
    rfl
  · obtain ⟨c, hexec, hrun⟩ := transferFastIssuesTheEightWords s src dest len inc tgt busy w _ hidle ho hi
      (List.forall_mem_append.mp hb).1 hw
    rw [← transferWithoutCrossingIsTransferFast s src dest len inc tgt hinc hlen hfit] at hexec
    refine ⟨c, _, _, hexec, hrun, hidle, rfl, ?_⟩
    rw [wordsTo_ctrl_transferFast, commandsOf_of_not_crosses hfit, List.flatMap_singleton]

theorem words_commandsOf_length (p : Params) :
    ((commandsOf p src dest len inc tgt).flatMap DmaCommand.words).length = 8 * (segments src dest len).length := by
  have hwords : ∀ c : DmaCommand, c.words.length = 8 := fun _ => rfl
  simp [List.length_flatMap, hwords, commandsOf_length, Nat.mul_comm]

end

/-- Settles O44: both write the words of the commands the request comes to; PUSH stores them in the empty queue, which FLUSH
replays. -/
theorem pushThenFlushWritesWhatTransferWrites : Obligations.PushThenFlushWritesWhatTransferWrites := by
  unfold Obligations.PushThenFlushWritesWhatTransferWrites
  intro s src dest len inc tgt busy busy' w w' rest hinv hidle ho hempty hpass hi hb hw hw' k
  obtain ⟨_, _, hslots, _⟩ := hinv
  obtain ⟨hinc, hlen, _⟩ := push_passes_iff.mp hpass
  have hroom : k ≤ s.slots.length := by
    have hfree := push_has_room (dest := dest) hpass
    rwa [hempty, Nat.zero_add, ← hslots] at hfree
  have hqueue : (storeFrom s.slots 0 (commandsOf s.params src dest len inc tgt)).take k =
      commandsOf s.params src dest len inc tgt := by
    have htake := take_storeFrom (slots := s.slots) (n := 0) (cs := commandsOf s.params src dest len inc tgt)
    rw [commandsOf_length, Nat.zero_add] at htake
    exact htake hroom
  obtain ⟨a, hpush, hstored⟩ := push_stores_commands (dest := dest) (tgt := tgt) hidle hpass
  rw [hempty, Nat.zero_add] at hstored
  obtain ⟨b, hflush, hreplayed⟩ := flush_replays (s := { s with
    slots := storeFrom s.slots 0 (commandsOf s.params src dest len inc tgt)
    cursor := k
    responses := s.responses ++ [⟨true, 0#16⟩] }) hidle (by rwa [storeFrom_length]) ho
  obtain ⟨c, v, n, htransfer, hrun, hend, hresp, hwritten⟩ :=
    transfer_writes_commands (dest := dest) (tgt := tgt) hidle ho hinc hlen hi hb hw hw'
  refine ⟨a, _, b, c, _, v, n, hpush, hstored, hidle, hflush, hreplayed, hidle, List.append_assoc .., htransfer, hrun,
    hend, hresp, ?_, ?_⟩
  · rw [wordsTo_ctrl_flush, hqueue, hwritten]
  · rw [hwritten, List.length_append, words_commandsOf_length]

/-! ## The transition table (rules R16, R105) -/

section
variable {q n : Nat}

theorem queueState_zero (q : Nat) : queueState q 0 = .empty := rfl

theorem queueState_of_pos (h : 0 < n) : queueState q n = if n = q then .full else .accumulating :=
  if_neg (Nat.ne_of_gt h)

theorem queueState_full_iff (h : 0 < q) : queueState q n = .full ↔ n = q := by
  rcases Nat.eq_zero_or_pos n with rfl | hn
  · simp [queueState_zero, Nat.ne_of_lt h]
  · simp [queueState_of_pos hn]

end

/-! ## The commands that leave the queue alone (rules R71 to R74, R85 to R89, R103) -/

/-- The line writes a slot or `CURSOR`. -/
def Micro.movesQueue : Micro → Bool
  | .storeField _ _ | .advanceCursor | .emptyQueue => true
  | .write _ _ | .writeSlot _ _ | .acquire | .acquireFast | .release | .pollStatus | .pollGrant | .reportFree
  | .respond _ _ => false

/-- None of the lines writes a slot or `CURSOR`. -/
def LeavesQueue (l : List Micro) : Prop := ∀ m ∈ l, m.movesQueue = false

/-- A line that does not write the queue leaves it, and nothing comes after it that was not to come. -/
theorem perform_leaves_queue {m : Micro} {rest : List Micro} {s t : State} (h : perform m rest s = .next t)
    (hl : LeavesQueue (m :: rest)) : LeavesQueue t.todo ∧ t.slots = s.slots ∧ t.cursor = s.cursor := by
  obtain ⟨hm, hrest⟩ := List.forall_mem_cons.mp hl
  rcases perform_next h with ⟨_, _, _, rfl⟩ | ⟨_, _, rfl⟩ | ⟨_, _, rfl⟩ | ⟨_, _, rfl⟩ | ⟨rfl, _, rfl⟩ | ⟨_, _, rfl⟩ |
    ⟨_, _, rfl⟩ | ⟨rfl, _, rfl⟩ | ⟨_, rfl⟩ | ⟨_, _, rfl, _⟩ | ⟨rfl, _⟩ | ⟨rfl, _⟩ | ⟨_, _, _, rfl⟩
  · exact ⟨hrest, s.memWrite_slots _ _, s.memWrite_cursor _ _⟩
  · exact ⟨hrest, rfl, rfl⟩
  · exact ⟨hrest, rfl, rfl⟩
  · exact ⟨hrest, rfl, rfl⟩
  · exact ⟨hl, rfl, rfl⟩
  · exact ⟨hrest, rfl, rfl⟩
  · exact ⟨hrest, rfl, rfl⟩
  · exact ⟨hl, rfl, rfl⟩
  · exact ⟨List.forall_mem_cons.mpr ⟨rfl, hrest⟩, rfl, rfl⟩
  · cases hm
  · cases hm
  · cases hm
  · exact ⟨fun _ => nofun, rfl, rfl⟩

theorem LeavesQueue.append {l r : List Micro} (hl : LeavesQueue l) (hr : LeavesQueue r) : LeavesQueue (l ++ r) :=
  List.forall_mem_append.mpr ⟨hl, hr⟩

theorem leavesQueue_respond {ok : Bool} {v : Word} : LeavesQueue [.respond ok v] := by
  simp [LeavesQueue, Micro.movesQueue]

theorem leavesQueue_transferFastCode (c : DmaCommand) : LeavesQueue (transferFastCode c) := by
  simp [LeavesQueue, transferFastCode, Micro.movesQueue]

/-- The lines of every command but the two pushes, FLUSH and CLEAR leave the queue alone. -/
theorem codeOf_leaves_queue {i : Instr} (hflush : i ≠ .flush) (hclear : i ≠ .clear)
    (hpush : ∀ src dest len inc tgt, i ≠ .pushFast src dest len inc tgt ∧ i ≠ .push src dest len inc tgt) (s : State) :
    LeavesQueue (codeOf i s) := by
  cases i with
  | pushFast src dest len inc tgt => exact absurd rfl (hpush src dest len inc tgt).1
  | push src dest len inc tgt => exact absurd rfl (hpush src dest len inc tgt).2
  | flush => exact absurd rfl hflush
  | clear => exact absurd rfl hclear
  | transferFast src dest len inc tgt => exact (leavesQueue_transferFastCode _).append leavesQueue_respond
  | transfer src dest len inc tgt =>
    rw [codeOf]
    split
    · exact leavesQueue_respond
    · refine LeavesQueue.append ?_ leavesQueue_respond
      intro m hm
      obtain ⟨g, _, hm⟩ := List.mem_flatMap.mp hm
      exact leavesQueue_transferFastCode _ m hm
  | fill dest len val inc =>
    rw [codeOf]
    split
    · exact leavesQueue_respond
    · simp [LeavesQueue, fillCode, write32, Micro.movesQueue]
  | request => simp [LeavesQueue, codeOf, requestCode, Micro.movesQueue]
  | requestFast | release | isFree | wait | size => simp [LeavesQueue, codeOf, Micro.movesQueue]

/-- Where the host presents nothing more, an operation that leaves the queue alone does so at every step. -/
theorem step_leaves_queue {s t : State} (hin : s.hostIn = []) (hl : LeavesQueue s.todo) (h : step s = .next t) :
    t.hostIn = [] ∧ LeavesQueue t.todo ∧ t.slots = s.slots ∧ t.cursor = s.cursor := by
  rcases step_cases h with ⟨_, _, rfl⟩ | ⟨m, rest, ht, hp⟩ | ⟨d, ds, _, _, _, _, hd, _⟩
  · exact ⟨hin, hl, rfl, rfl⟩
  · exact ⟨(perform_keeps hp).2.trans hin, perform_leaves_queue hp (ht ▸ hl)⟩
  · exact nomatch hin.symm.trans hd

theorem steps_leave_queue {n : Nat} {s u : State} (hin : s.hostIn = []) (hl : LeavesQueue s.todo)
    (h : steps n s = .next u) : u.slots = s.slots ∧ u.cursor = s.cursor := by
  induction n generalizing s with
  | zero => cases h; exact ⟨rfl, rfl⟩
  | succ n ih =>
    cases hs : step s with
    | next t =>
      obtain ⟨hin', hl', hslots, hcursor⟩ := step_leaves_queue hin hl hs
      obtain ⟨hslots', hcursor'⟩ := ih hin' hl' ((steps_succ hs n).symm.trans h)
      exact ⟨hslots'.trans hslots, hcursor'.trans hcursor⟩
    | fault f => exact nomatch (steps_of_fault hs n).symm.trans h
    | refused r => exact nomatch (steps_of_refused hs n).symm.trans h

/-- A command whose lines leave the queue alone, run on from its acceptance (rule R105). -/
theorem exec_leaves_queue {i : Instr} {s t u : State} {n : Nat} (hidle : s.todo = []) (hin : s.hostIn = [])
    (hl : LeavesQueue (codeOf i s)) (hexec : exec i s = .next t) (hrun : steps n t = .next u) :
    u.slots = s.slots ∧ u.cursor = s.cursor := by
  obtain ⟨m, rest, hc, he⟩ := exec_of_idle hidle i
  rw [hc] at hl
  have hline : step { s with todo := m :: rest } = .next t := (step_of_busy rfl).trans (he.symm.trans hexec)
  exact steps_leave_queue (s := { s with todo := m :: rest }) hin hl ((steps_succ hline n).trans hrun)

/-- Settles O57: the queue's own commands move it as their settled statements say, and the lines of the others leave it. -/
theorem queueStateTransitions : Obligations.QueueStateTransitions := by
  unfold Obligations.QueueStateTransitions
  intro s hinv hidle q
  have ⟨hwf, hle, _⟩ := hinv
  have hfull : q s.cursor = .full ↔ s.cursor = s.params.qcap := queueState_full_iff (Params.qcap_pos hwf)
  refine ⟨fun src dest len inc tgt =>
      ⟨fun hne => ?pushFast, fun hf => ?overflow, fun hpass hc => ?push, fun hpass hc => ?crossing, fun hfail => ?fails⟩,
    fun ho => ?flush, ?clear, fun i n t u hin hflush hclear hpush hexec hrun => ?others⟩
  case pushFast =>
    have hfree : s.cursor < s.params.qcap := lt_of_le_of_ne hle (mt hfull.mpr hne)
    obtain ⟨t, hexec, hrun⟩ := (pushFastAppendsOrOverflows s src dest len inc tgt hidle).1 hfree
    exact ⟨t, _, hexec, hrun, hidle, queueState_of_pos (Nat.succ_pos _)⟩
  case overflow => exact (pushFastAppendsOrOverflows s src dest len inc tgt hidle).2 (hfull.mp hf)
  case push =>
    obtain ⟨hinc, hlen, hfree, _⟩ := push_passes_iff.mp hpass
    have hfit : len.toNat ≤ remain src := Nat.not_lt.mp (of_decide_eq_false hc)
    obtain ⟨t, hexec, hrun⟩ := pushWithoutCrossingAppendsOne s src dest len inc tgt hidle hinc hlen hfit hfree
    exact ⟨mt hfull.mp hfree.ne, t, _, hexec, hrun, hidle, queueState_of_pos (Nat.succ_pos _)⟩
  case crossing =>
    have hcross : remain src < len.toNat := (crosses_iff src len).mp hc
    obtain ⟨hinc, _, hfree, htwo⟩ := push_passes_iff.mp hpass
    obtain ⟨t, hexec, hrun⟩ :=
      crossingPushAppendsTailThenHead s src dest len inc tgt hidle hinc hcross (htwo hcross)
    exact ⟨mt hfull.mp hfree.ne, htwo hcross, t, _, hexec, hrun, hidle, queueState_of_pos (Nat.succ_pos _)⟩
  case fails => exact ⟨_, exec_of_respond hidle (if_pos hfail), hidle, rfl, rfl⟩
  case flush =>
    obtain ⟨t, hexec, hrun⟩ := (flushReplaysTheQueueInOrder s hinv hidle).1 ho
    exact ⟨t, _, hexec, hrun, hidle, queueState_zero _⟩
  case clear =>
    obtain ⟨t, hexec, hrun⟩ := clearEmptiesTheQueue.2 s hidle
    exact ⟨t, _, hexec, hrun, hidle, queueState_zero _⟩
  case others => exact exec_leaves_queue hidle hin (codeOf_leaves_queue hflush hclear hpush s) hexec hrun

end Sys2Proof.Machine

/-! Proofs of the family `43_sequencing_and_access.md` (rules R105 to R113): what can fault in the middle of an operation. -/

namespace Sys2Proof.Machine

open Sys2Proof

/-- A release that comes in an operation under way closes a bracket (rule R75). -/
theorem Underway.owner_eq_main_of_release {q n : Nat} {o : Owner} {l : List Micro} (h : Underway q n o (.release :: l)) :
    o = .main := by
  obtain ⟨_, _, hbr⟩ := h
  exact eq_of_beq (Bool.and_eq_true_iff.mp hbr).1

/-- A store that comes in an operation under way finds a free slot (rules R13, R101). -/
theorem Underway.cursor_lt_of_storeField {q n : Nat} {o : Owner} {k : Fin 8} {v : Word} {l : List Micro}
    (h : Underway q n o (.storeField k v :: l)) : n < q := by
  obtain ⟨_, hslots, _⟩ := h
  exact of_decide_eq_true (Bool.and_eq_true_iff.mp hslots).1

/-- Settles O48: of the three ways a line can fault, an operation under way excludes the unmatched release and the store on a
full queue. -/
theorem onlyAnAcquireFaultsMidOperation : Obligations.OnlyAnAcquireFaultsMidOperation := by
  unfold Obligations.OnlyAnAcquireFaultsMidOperation
  intro s m rest f hinv ht
  obtain ⟨_, hu⟩ := (State.inv_iff s).mp hinv
  rw [ht] at hu
  rw [step_of_busy ht, perform_fault]
  constructor
  · rintro (⟨hf, ⟨hm, ho⟩ | ⟨rfl, ho⟩⟩ | ⟨_, ⟨k, v, rfl⟩, hfull⟩)
    · exact ⟨hm, ho, hf⟩
    · exact nomatch ho.symm.trans hu.owner_eq_main_of_release
    · exact absurd hu.cursor_lt_of_storeField hfull.not_gt
  · rintro ⟨hm, ho, hf⟩
    exact .inl ⟨hf, .inl ⟨hm, ho⟩⟩

end Sys2Proof.Machine

/-! Proofs of the family `60_exceptions.md` (rules R120 to R137): illegal descriptors, and transfers that overtake each
other. -/

namespace Sys2Proof.Machine

open Sys2Proof

/-! ## Illegal descriptors (rule R125) -/

/-- Accepting a decoded command runs a line, and a line faults only at the bus or the queue (rules R126, R127). -/
theorem exec_ne_illegalCommand {s : State} (hidle : s.todo = []) (i : Instr) : exec i s ≠ .fault .illegalCommand := by
  obtain ⟨m, rest, _, he⟩ := exec_of_idle hidle i
  rw [he, Ne, perform_fault]
  rintro (⟨hbus, _⟩ | ⟨hqueue, _⟩)
  · cases hbus
  · cases hqueue

/-- Settles O4: what the decoder accepts is legal and its command has no such fault; what it rejects is illegal and faults
at once. -/
theorem illegalDescriptorFaults : Obligations.IllegalDescriptorFaults := by
  unfold Obligations.IllegalDescriptorFaults
  intro s d ds hidle hin
  cases hdec : decode d with
  | ok i =>
    have hlegal : d.legal = true := (decode_accepts_iff_legal d).mp ⟨i, hdec⟩
    have hfault : step s ≠ .fault .illegalCommand := by
      rw [step_of_legal hidle hin hdec]
      exact exec_ne_illegalCommand (s := { s with hostIn := ds }) hidle i
    simp [hfault, hlegal]
  | rejected why =>
    have hillegal : d.legal = false := by simpa [hdec] using decode_accepts_iff_legal d
    exact iff_of_true (step_of_illegal hidle hin hdec) hillegal

/-! ## Transfers that overtake each other (rules R133 (c), R149, R150) -/

/-- The words of a transfer start one operation, which may be in flight after them and may be corrupted where another may
have been in flight before them. -/
theorem Vdp.operations_build_words {p : Params} {tgt : Target} (h : p.wf = true)
    (hb : (baseDma p tgt).extractLsb' 30 2 ≠ 0b10#2) (src : BitVec 32) (dest len : BitVec 16) (inc : Byte) {d : Vdp}
    (hd : d.half = none) :
    let d' := (build p src dest len inc tgt).words.foldl (fun d w => d.control p w) d
    d'.half = none ∧ d'.mayBeInFlight = true ∧
      ∃ o, d'.operations = d.overtaken ++ [o] ∧ o.mayBeCorrupted = d.mayBeInFlight := by
  obtain ⟨f, _, hwords⟩ := Vdp.foldl_build_words h hb src dest len inc hd
  intro d'
  have hd' : d' = _ := hwords
  rw [hd']
  exact ⟨hd, rfl, _, rfl, rfl⟩

/-- Settles O60: a wait leaves nothing in flight, so that the next transfer overtakes nothing; without one the next transfer
overtakes the last. -/
theorem transfersWithoutAWaitMayCorruptEachOther : Obligations.TransfersWithoutAWaitMayCorruptEachOther := by
  unfold Obligations.TransfersWithoutAWaitMayCorruptEachOther
  intro p d src src' dest len dest' len' inc inc' tgt tgt' busy busy' w w' h hd hb hb' hw hw' waited issued c c'
  obtain ⟨hops₁, hquiet₁, hhalf₁⟩ := Vdp.waited hw busy d
  obtain ⟨hhalf₂, hflight₂, o, hops₂, ho⟩ := Vdp.operations_build_words h hb src dest len inc (hhalf₁ hd)
  rw [Vdp.overtaken_of_quiet hquiet₁, hops₁] at hops₂
  rw [hquiet₁] at ho
  constructor
  · obtain ⟨hops₃, hquiet₃, hhalf₃⟩ := Vdp.waited hw' busy' (issued c (waited (busy ++ [w]) d))
    obtain ⟨_, _, o', hops₄, ho'⟩ := Vdp.operations_build_words h hb' src' dest' len' inc' (hhalf₃ hhalf₂)
    rw [Vdp.overtaken_of_quiet hquiet₃, hops₃, hops₂, List.append_assoc] at hops₄
    exact ⟨o, o', hops₄, ho, ho'.trans hquiet₃⟩
  · obtain ⟨_, _, o', hops₃, ho'⟩ := Vdp.operations_build_words h hb' src' dest' len' inc' hhalf₂
    rw [Vdp.overtaken_of_inFlight hflight₂ hops₂, List.append_assoc] at hops₃
    exact ⟨o.disturbed, o', hops₃, rfl, ho'.trans hflight₂⟩

end Sys2Proof.Machine

/-! Proofs of the family `70_reset_and_hazards.md` (rules R140 to R162): the hazards cover the faults at acceptance. -/

namespace Sys2Proof.Machine

open Sys2Proof

/-- Where a command would fault at once, the condition of the fault is itself a hazard: `unpaired` or `insideBracket` for an
acquire or a release, `noFreeSlot` for PUSH_FAST (rules R145, R146, R152). -/
theorem faultAtOnce_of_safe {i : Instr} {s : State} (hsafe : safeCommand i s = true) : faultAtOnce i s = none := by
  have hz : hazards i s = [] := eq_of_beq hsafe
  cases i with
  | request | requestFast | release => simpa [hazards, faultAtOnce] using hz
  | pushFast src dest len inc tgt =>
    obtain ⟨hslot, _⟩ := List.append_eq_nil_iff.mp hz
    simpa [faultAtOnce] using hslot
  | flush =>
    obtain ⟨hbracket, _⟩ := List.append_eq_nil_iff.mp hz
    simpa [faultAtOnce] using hbracket
  | transferFast | transfer | fill | isFree | wait | push | size | clear => rfl

/-- Settles O58: a command faults when it is accepted exactly where `faultAtOnce` says, and the hazards cover those places. -/
theorem safeCommandsDoNotFault : Obligations.SafeCommandsDoNotFault := by
  unfold Obligations.SafeCommandsDoNotFault
  intro i s f hidle hsafe hfault
  have hsome : faultAtOnce i s = some f := (exec_fault_iff hidle).mp hfault
  exact nomatch (faultAtOnce_of_safe hsafe).symm.trans hsome

end Sys2Proof.Machine
